-- ==== Sys2Proof/Word.lean ====
section
/-! DEFINITION. The widths HFSD's signals and registers come in (00_scope.md R8, R9). -/

namespace Sys2Proof

/-- A byte is 8 bits (R9). -/
abbrev Byte := BitVec 8

/-- `HOST_DATA_W` and `CNT_W`: the host data word and the event counters (R8). -/
abbrev Word32 := BitVec 32

/-- `FB_ADDR_W`: an index into the frame buffer (R8). -/
abbrev FbIndex := BitVec 12

/-- `TOKEN_W`: an input token, `in_err ++ in_eos ++ in_data` (R8, 30_encoding.md R49). -/
abbrev Token := BitVec 10

/-- The host port's inputs as one word, `host_we ++ host_addr ++ host_wdata` (opcode_table.json, HOST41). -/
abbrev HostWord := BitVec 41

/-- The sink handshake's signals as one word, `out_valid ++ out_ready ++ out_fail` (opcode_table.json, SINK3). -/
abbrev SinkWord := BitVec 3

end Sys2Proof
end

