-- ==== Sys2Proof/Config.lean ====
section
/-! DEFINITION. The constants the source fixes (00_scope.md R7), the sizes this hardware takes (R8), and the
values the spec leaves open, which have no body here (93_implementation_defined.md I4, I8). -/

namespace Sys2Proof.Config

/-- START_TAG (R7). -/
abbrev startTag : Byte := 0x7E#8
/-- END_TAG (R7). -/
abbrev endTag : Byte := 0x7E#8
/-- FORMAT_NIBBLE (R7). -/
abbrev formatNibble : BitVec 4 := 0xA#4
/-- TAG_COUNT (R7). -/
abbrev tagCount : Byte := 0x02#8
/-- TAG_INT (R7). -/
abbrev tagInt : Byte := 0x06#8
/-- TAG_OCTETS (R7). -/
abbrev tagOctets : Byte := 0x09#8
/-- META_BYTES (R7). -/
abbrev metaBytes : Nat := 8
/-- The bytes of a timestamp item after its tag: the length byte and TS_PAYLOAD_BYTES = 11 (R7; 41_decoder_frame.md R90). -/
abbrev tsBytes : Nat := 12
/-- SUPPORTED_COUNTS (R7). -/
abbrev supportedCounts : List Byte := [1#8, 9#8, 13#8, 14#8, 18#8]
/-- DIV_CURRENT (R7). -/
abbrev divCurrent : Nat := 1000
/-- DIV_VOLTAGE (R7). -/
abbrev divVoltage : Nat := 10
/-- DIV_ENERGY (R7). -/
abbrev divEnergy : Nat := 1000
/-- DIV_POWER (R7). -/
abbrev divPower : Nat := 1
/-- FB_BYTES: the frame buffer holds indices 0 to 2048 (R8). -/
abbrev fbBytes : Nat := 2049

/-- What the frame-buffer byte at an index holds before anything has written it: unspecified, any value
(93_implementation_defined.md I4, I5). DESIGN CHOICE, log entry 3: a free value for each index. Safe. -/
opaque fbPowerUp : Nat → Byte

/-- HOST_BASE: where the host register space sits in a system, the platform's choice (93_implementation_defined.md I8;
20_memory.md R45). DESIGN CHOICE, log entry 13: a free value. Safe. -/
opaque hostBase : Nat

/-- The system address of a host register's byte offset (R45). No rule of the block depends on it. -/
def hostSystemAddress (offset : Byte) : Nat := hostBase + offset.toNat

end Sys2Proof.Config
end

