-- ==== Sys2Proof/Syntax.lean ====
section
/-! DEFINITION. The instructions of HFSD: one constructor for each row of opcode_table.json. An instruction is an
input token, a wire item, an event of the block, a sink handshake or a host command (00_scope.md R1). -/

namespace Sys2Proof

/-- `sync_state` (10_state.md R21). Value 3 is never reached and has no constructor. DEDUCED, log entry 18. Safe. -/
inductive SyncState where
  | seek | len | body
  deriving DecidableEq, Repr

/-- The fields the decoder reads, and the check FRAME_END (30_encoding.md R63). -/
inductive Field where
  | startTag | frameInfo | destAddr | srcAddr | control | hcs | metaBlock | msgTs | count
  | obisVersion | meterId | meterType | pImp | pExp | qImp | qExp
  | il1 | il2 | il3 | ul1 | ul2 | ul3 | eTs | eAImp | eAExp | eRImp | eRExp
  | fcs | endTag | frameEnd
  deriving DecidableEq, Repr

/-- The places of text items (42_decoder_body.md R96). -/
inductive TextField where
  | obisVersion | meterId | meterType
  deriving DecidableEq, Repr

/-- The places of unsigned integer items (42_decoder_body.md R97). -/
inductive U32Field where
  | pImp | pExp | qImp | qExp | ul1 | ul2 | ul3 | eAImp | eAExp | eRImp | eRExp
  deriving DecidableEq, Repr

/-- The places of signed integer items (42_decoder_body.md R98). -/
inductive S32Field where
  | il1 | il2 | il3
  deriving DecidableEq, Repr

/-- The payload of a timestamp item after its tag (30_encoding.md R59). -/
structure Timestamp where
  len : Byte
  year : BitVec 16
  month : Byte
  day : Byte
  hour : Byte
  minute : Byte
  second : Byte
  rsv : BitVec 32
  deriving DecidableEq, Repr

/-- A place in a frame, which fixes the wire row that stands there (30_encoding.md R50, R55, R60). `body` is where the
item count selects the variant (42_decoder_body.md R95). -/
inductive Place where
  | startTag | frameInfo | destAddr | srcAddr | control | hcs | metaBlock | msgTs | count | body
  | text (f : TextField)
  | u32 (f : U32Field)
  | s32 (f : S32Field)
  | eTs
  | footer
  deriving DecidableEq, Repr

/-- One constructor for each row of opcode_table.json. A wire row holds the bits of its word, its tag among them, and an
item row its place too; a host row holds the word's free bits (`lo`, the ignored bits 1:0 of the address, and `wdata`). -/
inductive Instr where
  | seekByte (b : Byte)
  | seekStart (b : Byte)
  | lenByte (b : Byte)
  | bodyByte (b : Byte)
  | bodyLast (b : Byte)
  | streamEos (ignored : Byte)
  | streamIoerr (ignored : BitVec 9)
  | cancelTake
  | startTag (tag : Byte)
  | frameInfo (format : BitVec 4) (sep : BitVec 1) (len : BitVec 11)
  | destAddr (a : Byte)
  | srcAddr (a : BitVec 16)
  | control (c : Byte)
  | hcs (h : BitVec 16)
  | metaBlock (lsapDst lsapSrc llc : Byte) (reserved : BitVec 40)
  | msgTs (tag : Byte) (t : Timestamp)
  | count (tag n : Byte)
  | variant1
  | variant9
  | variant13
  | variant14
  | variant18
  | variantUnsupported (n : Byte)
  | itemText (f : TextField) (tag k : Byte) (content : List Byte)
  | itemU32 (f : U32Field) (tag : Byte) (v : Word32)
  | itemS32 (f : S32Field) (tag : Byte) (v : Word32)
  | itemETs (tag : Byte) (t : Timestamp)
  | fcsEndTag (fcs : BitVec 16) (tag : Byte)
  | decodeStep
  | sinkAck
  | sinkFail
  | hostSrst (lo : BitVec 2) (wdata : Word32)
  | hostCancel (lo : BitVec 2) (wdata : Word32)
  | hostW1cStatus (lo : BitVec 2) (wdata : Word32)
  | hostWriteFbAddr (lo : BitVec 2) (wdata : Word32)
  | hostWriteIgnored (addr : Byte) (wdata : Word32)
  | hostReadCtrl (lo : BitVec 2) (wdata : Word32)
  | hostReadStatus (lo : BitVec 2) (wdata : Word32)
  | hostReadFbLen (lo : BitVec 2) (wdata : Word32)
  | hostReadFbAddr (lo : BitVec 2) (wdata : Word32)
  | hostReadFbData (lo : BitVec 2) (wdata : Word32)
  | hostReadErrInfo (lo : BitVec 2) (wdata : Word32)
  | hostReadErrOffset (lo : BitVec 2) (wdata : Word32)
  | hostReadCntSeek (lo : BitVec 2) (wdata : Word32)
  | hostReadCntCap (lo : BitVec 2) (wdata : Word32)
  | hostReadCntOk (lo : BitVec 2) (wdata : Word32)
  | hostReadCntFmt (lo : BitVec 2) (wdata : Word32)
  | hostReadCntVar (lo : BitVec 2) (wdata : Word32)
  | hostReadCntSinkFail (lo : BitVec 2) (wdata : Word32)
  | hostReadUnmapped (addr : Byte) (wdata : Word32)
  deriving DecidableEq, Repr

end Sys2Proof
end

