-- ==== Sys2Proof/WellFormed.lean ====
section
/-! DEFINITION. Which instructions a word of opcode_table.json spells: each row's match, mask and condition, on its fields. -/

namespace Sys2Proof

/-- The row's fixed bits and its condition hold of the instruction's fields (opcode_table.json; 30_encoding.md R51 to R61;
44_host_interface.md R117 to R127). -/
def Instr.wf : Instr → Bool
  | .seekStart b => b.extractLsb' 4 4 == Config.formatNibble
  | .startTag tag => tag == Config.startTag
  | .frameInfo format _ _ => format == Config.formatNibble
  | .msgTs tag _ => tag == Config.tagOctets
  | .count tag _ => tag == Config.tagCount
  | .variantUnsupported n => !Config.supportedCounts.contains n
  | .itemText _ tag k content => tag == Config.tagOctets && content.length == k.toNat
  | .itemU32 _ tag _ => tag == Config.tagInt
  | .itemS32 _ tag _ => tag == Config.tagInt
  | .itemETs tag _ => tag == Config.tagOctets
  | .fcsEndTag _ tag => tag == Config.endTag
  | .hostSrst _ wdata => wdata.getLsbD 0
  | .hostCancel _ wdata => wdata.extractLsb' 0 2 == 0b10#2
  | .hostWriteIgnored addr wdata =>
      let off := addr &&& 0xFC#8
      (off == 0x00#8 && wdata.extractLsb' 0 2 == 0#2) || !(off == 0x00#8 || off == 0x04#8 || off == 0x0C#8)
  | .hostReadUnmapped addr _ => decide (0x34 ≤ (addr &&& 0xFC#8).toNat)
  | .seekByte _ | .lenByte _ | .bodyByte _ | .bodyLast _ | .streamEos _ | .streamIoerr _ | .cancelTake => true
  | .destAddr _ | .srcAddr _ | .control _ | .hcs _ | .metaBlock _ _ _ _ => true
  | .variant1 | .variant9 | .variant13 | .variant14 | .variant18 => true
  | .decodeStep | .sinkAck | .sinkFail => true
  | .hostW1cStatus _ _ | .hostWriteFbAddr _ _ => true
  | .hostReadCtrl _ _ | .hostReadStatus _ _ | .hostReadFbLen _ _ | .hostReadFbAddr _ _ | .hostReadFbData _ _ => true
  | .hostReadErrInfo _ _ | .hostReadErrOffset _ _ | .hostReadCntSeek _ _ | .hostReadCntCap _ _ | .hostReadCntOk _ _ => true
  | .hostReadCntFmt _ _ | .hostReadCntVar _ _ | .hostReadCntSinkFail _ _ => true

end Sys2Proof
end

