-- ==== Sys2Proof/Decode.lean ====
section
/-! DEFINITION. The decoder of every word HFSD acts on, then the encoder, both from 30_encoding.md, 44_host_interface.md and
opcode_table.json. A word alone does not say at which port or place it stands, and a BYTE token's row depends on the
synchronizer (40_synchronizer.md R69), so the decoder is told where the word stands: `Port`. -/

namespace Sys2Proof

/-! ### Assembling values from bytes (20_memory.md R42, 30_encoding.md R64) -/

/-- Byte `i` of a list, `0x00` past its end. -/
def byteAt (bs : List Byte) (i : Nat) : Byte := bs.getD i 0#8

/-- A big-endian `u16`: `b[i] ++ b[i+1]` (R64). -/
def be16 (bs : List Byte) (i : Nat) : BitVec 16 := byteAt bs i ++ byteAt bs (i + 1)

/-- A big-endian `u32` (R64). -/
def be32 (bs : List Byte) (i : Nat) : BitVec 32 := be16 bs i ++ be16 bs (i + 2)

/-- The 40-bit Meta reserved value, `MemRead(i, 5)` (R64). -/
def be40 (bs : List Byte) (i : Nat) : BitVec 40 := byteAt bs i ++ be32 bs (i + 1)

/-- The payload of a timestamp item whose length byte is byte `i` (R59). -/
def timestampAt (bs : List Byte) (i : Nat) : Timestamp where
  len := byteAt bs i
  year := be16 bs (i + 1)
  month := byteAt bs (i + 3)
  day := byteAt bs (i + 4)
  hour := byteAt bs (i + 5)
  minute := byteAt bs (i + 6)
  second := byteAt bs (i + 7)
  rsv := be32 bs (i + 8)

/-- The start-candidate test on `(prev, cur)`: `prev = 0x7E` and `cur[7:4] = 0xA` (R52; 90_conflicts.md C1). -/
def startCandidate (prev cur : Byte) : Bool :=
  prev == Config.startTag && cur.extractLsb' 4 4 == Config.formatNibble

/-! ### The decoder -/

/-- Where a word stands. -/
inductive Port where
  /-- the input port, with the synchronizer registers that select the row of a BYTE token (40_synchronizer.md R69) -/
  | token (sync : SyncState) (win : Byte) (rem : FbIndex)
  /-- a place in the frame buffer (30_encoding.md R55) -/
  | wire (p : Place)
  /-- the sink handshake (43_reader_loop.md R109, R110) -/
  | sink
  /-- the host port (44_host_interface.md R115) -/
  | host
  /-- the block's own cancel step, which takes no word (40_synchronizer.md R78) -/
  | cancel
  /-- the block's own decode step, which takes no word (43_reader_loop.md R107) -/
  | decode
  deriving DecidableEq, Repr

/-- Why bytes spell no instruction at a port. -/
inductive Reject where
  /-- fewer bytes than the word has -/
  | tooShort
  /-- a bit above the port's width is 1 -/
  | tooWide
  /-- the tag is not the one expected at the place (30_encoding.md R66) -/
  | tagMismatch
  /-- the frame info's format nibble is not 0xA (30_encoding.md R51) -/
  | formatNibble
  /-- `out_valid` and `out_ready` are not both 1: no handshake (10_state.md R15) -/
  | noHandshake
  /-- a byte in BODY with `rem = 0`: the spec names no operation, and no run reaches it (40_synchronizer.md R69) -/
  | bodyNothingDue
  deriving DecidableEq, Repr

/-- The row a token selects (40_synchronizer.md R69; 30_encoding.md R49): IOERR outranks EOS, EOS outranks BYTE. -/
def decodeToken (sync : SyncState) (win : Byte) (rem : FbIndex) (t : Token) : Except Reject Instr :=
  if t.getLsbD 9 then .ok (.streamIoerr (t.extractLsb' 0 9))
  else if t.getLsbD 8 then .ok (.streamEos (t.extractLsb' 0 8))
  else
    let b := t.extractLsb' 0 8
    match sync with
    | .seek => if startCandidate win b then .ok (.seekStart b) else .ok (.seekByte b)
    | .len => .ok (.lenByte b)
    | .body =>
      if rem = 0#12 then .error .bodyNothingDue
      else if rem = 1#12 then .ok (.bodyLast b)
      else .ok (.bodyByte b)

/-- The variant row an item count selects (42_decoder_body.md R95). -/
def variantOf (n : Byte) : Instr :=
  if n = 1#8 then .variant1
  else if n = 9#8 then .variant9
  else if n = 13#8 then .variant13
  else if n = 14#8 then .variant14
  else if n = 18#8 then .variant18
  else .variantUnsupported n

/-- The bytes the wire row at a place takes, which only a text item's length byte decides (30_encoding.md R67). -/
def wireSize (p : Place) (bs : List Byte) : Nat :=
  match p with
  | .startTag | .destAddr | .control => 1
  | .frameInfo | .srcAddr | .hcs | .count | .body => 2
  | .metaBlock => Config.metaBytes
  | .msgTs | .eTs => 1 + Config.tsBytes
  | .text _ => 2 + (byteAt bs 1).toNat
  | .u32 _ | .s32 _ => 5
  | .footer => 3

/-- The wire row at a place with the bits found there, whatever its tag (30_encoding.md R50, R55). -/
def assembleWire (p : Place) (bs : List Byte) : Instr :=
  match p with
  | .startTag => .startTag (byteAt bs 0)
  | .frameInfo =>
    let fi := be16 bs 0
    .frameInfo (fi.extractLsb' 12 4) (fi.extractLsb' 11 1) (fi.extractLsb' 0 11)
  | .destAddr => .destAddr (byteAt bs 0)
  | .srcAddr => .srcAddr (be16 bs 0)
  | .control => .control (byteAt bs 0)
  | .hcs => .hcs (be16 bs 0)
  | .metaBlock => .metaBlock (byteAt bs 0) (byteAt bs 1) (byteAt bs 2) (be40 bs 3)
  | .msgTs => .msgTs (byteAt bs 0) (timestampAt bs 1)
  | .count => .count (byteAt bs 0) (byteAt bs 1)
  | .body => variantOf (byteAt bs 1)
  | .text f => .itemText f (byteAt bs 0) (byteAt bs 1) ((bs.drop 2).take (byteAt bs 1).toNat)
  | .u32 f => .itemU32 f (byteAt bs 0) (be32 bs 1)
  | .s32 f => .itemS32 f (byteAt bs 0) (be32 bs 1)
  | .eTs => .itemETs (byteAt bs 0) (timestampAt bs 1)
  | .footer => .fcsEndTag (be16 bs 0) (byteAt bs 2)

/-- The wire row the first bytes of a list spell at a place; bytes after it belong to later places (30_encoding.md R66). -/
def decodeWire (p : Place) (bs : List Byte) : Except Reject Instr :=
  if bs.length < wireSize p bs then .error .tooShort
  else if p = .body && byteAt bs 0 != Config.tagCount then .error .tagMismatch
  else if (assembleWire p bs).wf then .ok (assembleWire p bs)
  else if p = .frameInfo then .error .formatNibble
  else .error .tagMismatch

/-- The handshake rows (43_reader_loop.md R109, R110; 10_state.md R15). -/
def decodeSink (w : SinkWord) : Except Reject Instr :=
  if w = 0b110#3 then .ok .sinkAck
  else if w = 0b111#3 then .ok .sinkFail
  else .error .noHandshake

/-- The register write rows; SRST outranks CANCEL (44_host_interface.md R117 to R127). -/
def decodeHostWrite (addr : Byte) (wdata : Word32) : Instr :=
  let lo := addr.extractLsb' 0 2
  let off := addr &&& 0xFC#8
  if off = 0x00#8 then
    if wdata.getLsbD 0 then .hostSrst lo wdata
    else if wdata.getLsbD 1 then .hostCancel lo wdata
    else .hostWriteIgnored addr wdata
  else if off = 0x04#8 then .hostW1cStatus lo wdata
  else if off = 0x0C#8 then .hostWriteFbAddr lo wdata
  else .hostWriteIgnored addr wdata

/-- The register read rows (44_host_interface.md R117). -/
def decodeHostRead (addr : Byte) (wdata : Word32) : Instr :=
  let lo := addr.extractLsb' 0 2
  let off := addr &&& 0xFC#8
  if off = 0x00#8 then .hostReadCtrl lo wdata
  else if off = 0x04#8 then .hostReadStatus lo wdata
  else if off = 0x08#8 then .hostReadFbLen lo wdata
  else if off = 0x0C#8 then .hostReadFbAddr lo wdata
  else if off = 0x10#8 then .hostReadFbData lo wdata
  else if off = 0x14#8 then .hostReadErrInfo lo wdata
  else if off = 0x18#8 then .hostReadErrOffset lo wdata
  else if off = 0x1C#8 then .hostReadCntSeek lo wdata
  else if off = 0x20#8 then .hostReadCntCap lo wdata
  else if off = 0x24#8 then .hostReadCntOk lo wdata
  else if off = 0x28#8 then .hostReadCntFmt lo wdata
  else if off = 0x2C#8 then .hostReadCntVar lo wdata
  else if off = 0x30#8 then .hostReadCntSinkFail lo wdata
  else .hostReadUnmapped addr wdata

/-- The row a host access is: `host_we ++ host_addr ++ host_wdata` (44_host_interface.md R115). Every word is one. -/
def decodeHost (w : HostWord) : Instr :=
  if w.getLsbD 40 then decodeHostWrite (w.extractLsb' 32 8) (w.extractLsb' 0 32)
  else decodeHostRead (w.extractLsb' 32 8) (w.extractLsb' 0 32)

/-- The instruction bytes spell at a port. A word that is not in the frame buffer is laid out as a frame's words are, most
significant byte first (DESIGN CHOICE, log entry 9; HFSD stores no such word). -/
def decode (port : Port) (bs : List Byte) : Except Reject Instr :=
  match port with
  | .token sync win rem =>
    if bs.length < 2 then .error .tooShort
    else if (be16 bs 0).extractLsb' 10 6 != 0#6 then .error .tooWide
    else decodeToken sync win rem ((be16 bs 0).extractLsb' 0 10)
  | .wire p => decodeWire p bs
  | .sink =>
    if bs.length < 1 then .error .tooShort
    else if (byteAt bs 0).extractLsb' 3 5 != 0#5 then .error .tooWide
    else decodeSink ((byteAt bs 0).extractLsb' 0 3)
  | .host =>
    if bs.length < 6 then .error .tooShort
    else if (byteAt bs 0).extractLsb' 1 7 != 0#7 then .error .tooWide
    else .ok (decodeHost ((byteAt bs 0).extractLsb' 0 1 ++ (byteAt bs 1 ++ be32 bs 2)))
  | .cancel => .ok .cancelTake
  | .decode => .ok .decodeStep

/-! ### The encoder -/

/-- The byte of a 16-bit value at each end, most significant first (R42). -/
def bytes16 (v : BitVec 16) : List Byte := [v.extractLsb' 8 8, v.extractLsb' 0 8]

/-- The four bytes of a 32-bit value, most significant first. -/
def bytes32 (v : BitVec 32) : List Byte :=
  [v.extractLsb' 24 8, v.extractLsb' 16 8, v.extractLsb' 8 8, v.extractLsb' 0 8]

/-- The twelve bytes of a timestamp item after its tag (R59). -/
def bytesTimestamp (t : Timestamp) : List Byte :=
  t.len :: bytes16 t.year ++ [t.month, t.day, t.hour, t.minute, t.second] ++ bytes32 t.rsv

/-- A token's bytes. -/
def bytesToken (t : Token) : List Byte := [0#6 ++ t.extractLsb' 8 2, t.extractLsb' 0 8]

/-- A host access's bytes. -/
def bytesHost (we : BitVec 1) (addr : Byte) (wdata : Word32) : List Byte := (0#7 ++ we) :: addr :: bytes32 wdata

/-- A host register's address from its word offset (bits 7:2) and the ignored bits 1:0. -/
def hostAddr (off : BitVec 6) (lo : BitVec 2) : Byte := off ++ lo

/-- The words of an instruction, laid out as `decode` reads them (opcode_table.json; 30_encoding.md R49 to R61). -/
def encode : Instr → List Byte
  | .seekByte b | .seekStart b | .lenByte b | .bodyByte b | .bodyLast b => bytesToken (0b00#2 ++ b)
  | .streamEos ignored => bytesToken (0b01#2 ++ ignored)
  | .streamIoerr ignored => bytesToken (0b1#1 ++ ignored)
  | .cancelTake | .decodeStep => []
  | .startTag tag => [tag]
  | .frameInfo format sep len => bytes16 (format ++ (sep ++ len))
  | .destAddr a => [a]
  | .srcAddr a => bytes16 a
  | .control c => [c]
  | .hcs h => bytes16 h
  | .metaBlock lsapDst lsapSrc llc reserved =>
    lsapDst :: lsapSrc :: llc :: reserved.extractLsb' 32 8 :: bytes32 (reserved.extractLsb' 0 32)
  | .msgTs tag t => tag :: bytesTimestamp t
  | .count tag n => [tag, n]
  | .variant1 => [Config.tagCount, 1#8]
  | .variant9 => [Config.tagCount, 9#8]
  | .variant13 => [Config.tagCount, 13#8]
  | .variant14 => [Config.tagCount, 14#8]
  | .variant18 => [Config.tagCount, 18#8]
  | .variantUnsupported n => [Config.tagCount, n]
  | .itemText _ tag k content => tag :: k :: content
  | .itemU32 _ tag v => tag :: bytes32 v
  | .itemS32 _ tag v => tag :: bytes32 v
  | .itemETs tag t => tag :: bytesTimestamp t
  | .fcsEndTag fcs tag => bytes16 fcs ++ [tag]
  | .sinkAck => [0b00000110#8]
  | .sinkFail => [0b00000111#8]
  | .hostSrst lo wdata => bytesHost 1#1 (hostAddr 0#6 lo) wdata
  | .hostCancel lo wdata => bytesHost 1#1 (hostAddr 0#6 lo) wdata
  | .hostW1cStatus lo wdata => bytesHost 1#1 (hostAddr 1#6 lo) wdata
  | .hostWriteFbAddr lo wdata => bytesHost 1#1 (hostAddr 3#6 lo) wdata
  | .hostWriteIgnored addr wdata => bytesHost 1#1 addr wdata
  | .hostReadCtrl lo wdata => bytesHost 0#1 (hostAddr 0#6 lo) wdata
  | .hostReadStatus lo wdata => bytesHost 0#1 (hostAddr 1#6 lo) wdata
  | .hostReadFbLen lo wdata => bytesHost 0#1 (hostAddr 2#6 lo) wdata
  | .hostReadFbAddr lo wdata => bytesHost 0#1 (hostAddr 3#6 lo) wdata
  | .hostReadFbData lo wdata => bytesHost 0#1 (hostAddr 4#6 lo) wdata
  | .hostReadErrInfo lo wdata => bytesHost 0#1 (hostAddr 5#6 lo) wdata
  | .hostReadErrOffset lo wdata => bytesHost 0#1 (hostAddr 6#6 lo) wdata
  | .hostReadCntSeek lo wdata => bytesHost 0#1 (hostAddr 7#6 lo) wdata
  | .hostReadCntCap lo wdata => bytesHost 0#1 (hostAddr 8#6 lo) wdata
  | .hostReadCntOk lo wdata => bytesHost 0#1 (hostAddr 9#6 lo) wdata
  | .hostReadCntFmt lo wdata => bytesHost 0#1 (hostAddr 10#6 lo) wdata
  | .hostReadCntVar lo wdata => bytesHost 0#1 (hostAddr 11#6 lo) wdata
  | .hostReadCntSinkFail lo wdata => bytesHost 0#1 (hostAddr 12#6 lo) wdata
  | .hostReadUnmapped addr wdata => bytesHost 0#1 addr wdata

/-- A port at which the instruction's words are read as it: one of those of its row's condition. -/
def portOf : Instr → Port
  | .seekByte _ | .streamEos _ | .streamIoerr _ => .token .seek 0x00#8 0#12
  | .seekStart _ => .token .seek Config.startTag 0#12
  | .lenByte _ => .token .len 0x00#8 0#12
  | .bodyByte _ => .token .body 0x00#8 2#12
  | .bodyLast _ => .token .body 0x00#8 1#12
  | .cancelTake => .cancel
  | .decodeStep => .decode
  | .startTag _ => .wire .startTag
  | .frameInfo _ _ _ => .wire .frameInfo
  | .destAddr _ => .wire .destAddr
  | .srcAddr _ => .wire .srcAddr
  | .control _ => .wire .control
  | .hcs _ => .wire .hcs
  | .metaBlock _ _ _ _ => .wire .metaBlock
  | .msgTs _ _ => .wire .msgTs
  | .count _ _ => .wire .count
  | .variant1 | .variant9 | .variant13 | .variant14 | .variant18 | .variantUnsupported _ => .wire .body
  | .itemText f _ _ _ => .wire (.text f)
  | .itemU32 f _ _ => .wire (.u32 f)
  | .itemS32 f _ _ => .wire (.s32 f)
  | .itemETs _ _ => .wire .eTs
  | .fcsEndTag _ _ => .wire .footer
  | .sinkAck | .sinkFail => .sink
  | .hostSrst _ _ | .hostCancel _ _ | .hostW1cStatus _ _ | .hostWriteFbAddr _ _ | .hostWriteIgnored _ _ => .host
  | .hostReadCtrl _ _ | .hostReadStatus _ _ | .hostReadFbLen _ _ | .hostReadFbAddr _ _ | .hostReadFbData _ _ => .host
  | .hostReadErrInfo _ _ | .hostReadErrOffset _ _ | .hostReadCntSeek _ _ | .hostReadCntCap _ _ => .host
  | .hostReadCntOk _ _ | .hostReadCntFmt _ _ | .hostReadCntVar _ _ | .hostReadCntSinkFail _ _ => .host
  | .hostReadUnmapped _ _ => .host

/-! ### The table's bare words -/

/-- The low `8 * k` bits of a number as bytes, most significant first. -/
def wordBytes : Nat → Nat → List Byte
  | 0, _ => []
  | k + 1, w => BitVec.ofNat 8 (w >>> (8 * k)) :: wordBytes k w

/-- The port at which a bare word of opcode_table.json is read. The table gives several rows the same words, told apart
only by where the word stands: the row with the most fixed bits is taken, then the earliest row of the table, then the
earliest place of its row (DESIGN CHOICE, log entry 8). -/
def tablePort (nbits w : Nat) : Option Port :=
  let token : Port := if w >>> 4 = 0x00A then .token .seek Config.startTag 0#12 else .token .seek 0x00#8 0#12
  if nbits = 0 then some .cancel
  else if nbits = 3 then some .sink
  else if nbits = 8 then
    if w = 0x7E then some (.wire .startTag)
    else if w = 0x09 then some (.wire (.text .obisVersion))
    else if w = 6 ∨ w = 7 then some .sink
    else some (.wire .destAddr)
  else if nbits = 10 then some token
  else if nbits = 16 then
    if w = 0x0201 ∨ w = 0x0209 ∨ w = 0x020D ∨ w = 0x020E ∨ w = 0x0212 then some (.wire .body)
    else if w >>> 8 = 0x02 then some (.wire .count)
    else if w < 0x400 then some token
    else if w >>> 12 = 0xA then some (.wire .frameInfo)
    else some (.wire .srcAddr)
  else if nbits = 24 then some (.wire .footer)
  else if nbits = 40 then some (.wire (.u32 .pImp))
  else if nbits = 41 ∨ nbits = 48 then some .host
  else if nbits = 64 then some (.wire .metaBlock)
  else if nbits = 104 then some (.wire .msgTs)
  else none

/-- The instruction the decoder reads from a bare word of opcode_table.json, numbered as the table numbers it. A text item
is given its length byte, zero, which the table's 8 bits leave out. -/
def decodeTableWord (nbits w : Nat) : Option Instr :=
  match tablePort nbits w with
  | none => none
  | some port =>
    match decode port (wordBytes ((nbits + 7) / 8) w ++ (if nbits = 8 then [0#8] else [])) with
    | .ok i => some i
    | .error _ => none

end Sys2Proof
end

