-- ==== Sys2Proof/Machine/State.lean ====
section
/-! DEFINITION. The state of HFSD as plain data: every register, memory and port output the spec gives the block
(10_state.md R20 to R36, 44_host_interface.md R123), the input pins still to come, and the locals of a decode step. -/

namespace Sys2Proof.Machine

/-- `phase` (10_state.md R20). -/
inductive Phase where
  | sync | decode | emit | halted
  deriving DecidableEq, Repr

/-- The last-error registers, and the record a log pulse carries (10_state.md R29; 60_exceptions.md R130). -/
structure ErrRec where
  kind : BitVec 3
  reason : BitVec 3
  field : BitVec 5
  offset : BitVec 12
  byte : BitVec 8
  deriving DecidableEq, Repr

/-- A FormatError's reason (60_exceptions.md R129). -/
inductive FmtReason where
  | tagMismatch | overrun | lengthMismatch | trailing
  deriving DecidableEq, Repr

/-- A StreamError's reason (60_exceptions.md R129). -/
inductive StreamReason where
  | eos | io | cancelled
  deriving DecidableEq, Repr

/-- The four error kinds with what each records (60_exceptions.md R128, R130). -/
inductive Err where
  | format (reason : FmtReason) (field : Field) (offset : Nat) (byte : Byte)
  | unsupportedVariant (count : Byte)
  | stream (reason : StreamReason) (sync : SyncState) (wp : FbIndex)
  | sink
  deriving DecidableEq, Repr

/-- The header fields of `REC` (10_state.md R32). -/
structure HdrRec where
  format : BitVec 4
  sep : BitVec 1
  len : BitVec 11
  dest : Byte
  src : BitVec 16
  ctrl : Byte
  hcs : BitVec 16
  deriving DecidableEq, Repr

/-- The Meta fields of `REC` (10_state.md R32). -/
structure LinkRec where
  lsapDst : Byte
  lsapSrc : Byte
  llcQ : Byte
  rsv : BitVec 40
  deriving DecidableEq, Repr

/-- A text field of `REC`: where its bytes stand in `FB`, and how many (42_decoder_body.md R96). -/
structure TextRef where
  off : BitVec 12
  len : Byte
  deriving DecidableEq, Repr

/-- `REC`, the record register set: one register for every field of every variant (10_state.md R32; 90_conflicts.md C8;
log entry 15). -/
structure Rec where
  count : Byte
  variant : BitVec 3
  mask : BitVec 32
  hdr : HdrRec
  link : LinkRec
  ts : Timestamp
  obis : TextRef
  mid : TextRef
  mtype : TextRef
  pImp : Word32
  pExp : Word32
  qImp : Word32
  qExp : Word32
  il1 : Word32
  il2 : Word32
  il3 : Word32
  ul1 : Word32
  ul2 : Word32
  ul3 : Word32
  ets : Timestamp
  eAImp : Word32
  eAExp : Word32
  eRImp : Word32
  eRExp : Word32
  fcs : BitVec 16
  deriving DecidableEq, Repr

/-- The frame buffer's written bytes: (index, byte) cells, indices strictly rising, none listed twice (20_memory.md R37). An
index that is not listed holds no written value; what reading it gives is `Machine.fbRead`'s to say (log entry 3). -/
abbrev Memory := List Host.Cell

/-- The locals of one decode step: the cursor, the record under construction and the places still to read
(41_decoder_frame.md R80, R84). The model's own (log entry 2). -/
structure Dec where
  cur : Nat
  todo : List Place
  record : Rec
  deriving DecidableEq, Repr

/-- The port outputs of the last clock edge that no register holds (10_state.md R16, R17, R18). `none` where the port
carried nothing (log entry 5). -/
structure Out where
  /-- the log port: `log_valid = 1` exactly when it is `some` (R17) -/
  log : Option ErrRec
  /-- `host_rdata`, of a read at that edge (44_host_interface.md R115) -/
  hostRdata : Option Word32
  /-- `sb_data`, where the sink looked at an address (R16) -/
  sbData : Option Byte
  deriving DecidableEq, Repr

/-- The input pins at one clock edge (10_state.md R12 to R18). -/
structure Edge where
  /-- `rst` (70_reset_and_hazards.md R141) -/
  rst : Bool
  /-- the token offered, where `in_valid = 1` (R13) -/
  token : Option Token
  /-- `out_ready ++ out_fail` (R15) -/
  sink : BitVec 2
  /-- `host_we ++ host_addr ++ host_wdata`, where `host_en = 1` (R18) -/
  host : Option HostWord
  /-- `sb_addr`, where the sink looks at its buffer read port (R16) -/
  sbAddr : Option FbIndex
  /-- whether the block's own step that is enabled (CANCEL_TAKE or DECODE_STEP) happens at this edge: the steps interleave
  in any order (00_scope.md R6) and a decode takes any finite number of edges (R145; log entry 4) -/
  internal : Bool
  deriving DecidableEq, Repr

/-- The whole machine. -/
structure State where
  /-- R20 -/
  phase : Phase
  /-- `sync_state`, R21 -/
  sync : SyncState
  /-- R22 -/
  win : BitVec 8
  /-- R23 -/
  flen : BitVec 11
  /-- R24 -/
  rem : BitVec 12
  /-- R25 -/
  wp : BitVec 12
  /-- `FB_LEN`, R26 -/
  fbLen : BitVec 12
  /-- R27 -/
  cancelPending : Bool
  /-- R28 -/
  serrCode : BitVec 2
  /-- R29 -/
  err : ErrRec
  /-- R30 -/
  fmtSeen : Bool
  /-- R30 -/
  varSeen : Bool
  /-- R30 -/
  sinkSeen : Bool
  /-- R31 -/
  cntSeek : BitVec 32
  /-- R31 -/
  cntCap : BitVec 32
  /-- R31 -/
  cntOk : BitVec 32
  /-- R31 -/
  cntFmt : BitVec 32
  /-- R31 -/
  cntVar : BitVec 32
  /-- R31 -/
  cntSinkFail : BitVec 32
  /-- `REC`, R32 -/
  record : Rec
  /-- `FB`, R33 -/
  fb : Memory
  /-- `FB_ADDR`, 44_host_interface.md R123 -/
  fbAddr : BitVec 12
  /-- the outputs of the last edge -/
  out : Out
  /-- the model's own: the edges to come, oldest first; past its end nothing is offered (log entry 1) -/
  edges : List Edge
  /-- the model's own: a decode step in progress; `none` between steps (R80; log entry 2) -/
  dec : Option Dec
  deriving DecidableEq, Repr

/-- Why a step stops. No state that a run from reset reaches raises one (log entry 7). -/
inductive Fault where
  /-- A byte token in BODY with no byte due: the spec names no operation (40_synchronizer.md R69). Raised by `blockInstr`. Safe. -/
  | bodyNothingDue
  /-- A write to a frame-buffer index above 2048, an address that does not exist (20_memory.md R37, R38). Raised by
  BODY_BYTE and BODY_LAST through `State.storeByte`. Safe. -/
  | fbOutOfRange (index : BitVec 12)
  deriving DecidableEq, Repr

/-- Why an instruction has no meaning. -/
inductive Refusal where
  /-- The arm of an instruction that has no meaning yet. No arm raises it. Safe. -/
  | notModelled (mnemonic : String)
  deriving DecidableEq, Repr

/-- All five last-error registers 0: no error yet (R29). -/
def ErrRec.zero : ErrRec := ⟨0#3, 0#3, 0#5, 0#12, 0#8⟩

/-- A timestamp with every component 0. -/
def zeroTimestamp : Timestamp := ⟨0#8, 0#16, 0#8, 0#8, 0#8, 0#8, 0#8, 0#32⟩

/-- Every field of `REC` 0 (R32). -/
def Rec.zero : Rec where
  count := 0#8
  variant := 0#3
  mask := 0#32
  hdr := ⟨0#4, 0#1, 0#11, 0#8, 0#16, 0#8, 0#16⟩
  link := ⟨0#8, 0#8, 0#8, 0#40⟩
  ts := zeroTimestamp
  obis := ⟨0#12, 0#8⟩
  mid := ⟨0#12, 0#8⟩
  mtype := ⟨0#12, 0#8⟩
  pImp := 0#32
  pExp := 0#32
  qImp := 0#32
  qExp := 0#32
  il1 := 0#32
  il2 := 0#32
  il3 := 0#32
  ul1 := 0#32
  ul2 := 0#32
  ul3 := 0#32
  ets := zeroTimestamp
  eAImp := 0#32
  eAExp := 0#32
  eRImp := 0#32
  eRExp := 0#32
  fcs := 0#16

/-- No port output. -/
def Out.zero : Out := ⟨none, none, none⟩

/-- The machine right after reset (10_state.md R36). `fb` lists nothing: its bytes are unspecified (R33, I4). `edges`,
`dec` and the outputs are the model's (log entries 1, 2, 5). -/
def State.reset : State where
  phase := .sync
  sync := .seek
  win := 0x00#8
  flen := 0#11
  rem := 0#12
  wp := 0#12
  fbLen := 0#12
  cancelPending := false
  serrCode := 0#2
  err := ErrRec.zero
  fmtSeen := false
  varSeen := false
  sinkSeen := false
  cntSeek := 0#32
  cntCap := 0#32
  cntOk := 0#32
  cntFmt := 0#32
  cntVar := 0#32
  cntSinkFail := 0#32
  record := Rec.zero
  fb := []
  fbAddr := 0#12
  out := Out.zero
  edges := []
  dec := none

end Sys2Proof.Machine
end

