-- ==== Sys2Proof/Machine/Flags.lean ====
section
/-! DEFINITION. The codes and bits software sees: phase and synchronizer codes, field ids, mask bits, error codes, sticky
flags, and the STATUS and ERR_INFO words. -/

namespace Sys2Proof.Machine

/-- `phase` as a number (10_state.md R20). -/
def Phase.code : Phase → BitVec 2
  | .sync => 0#2
  | .decode => 1#2
  | .emit => 2#2
  | .halted => 3#2

/-- `sync_state` as a number (10_state.md R21). -/
def syncCode : SyncState → BitVec 2
  | .seek => 0#2
  | .len => 1#2
  | .body => 2#2

/-- The field ids (30_encoding.md R63). -/
def fieldId : Field → BitVec 5
  | .startTag => 1#5
  | .frameInfo => 2#5
  | .destAddr => 3#5
  | .srcAddr => 4#5
  | .control => 5#5
  | .hcs => 6#5
  | .metaBlock => 7#5
  | .msgTs => 8#5
  | .count => 9#5
  | .obisVersion => 10#5
  | .meterId => 11#5
  | .meterType => 12#5
  | .pImp => 13#5
  | .pExp => 14#5
  | .qImp => 15#5
  | .qExp => 16#5
  | .il1 => 17#5
  | .il2 => 18#5
  | .il3 => 19#5
  | .ul1 => 20#5
  | .ul2 => 21#5
  | .ul3 => 22#5
  | .eTs => 23#5
  | .eAImp => 24#5
  | .eAExp => 25#5
  | .eRImp => 26#5
  | .eRExp => 27#5
  | .fcs => 28#5
  | .endTag => 29#5
  | .frameEnd => 30#5

/-- The field a text item is (42_decoder_body.md R96). -/
def textField : TextField → Field
  | .obisVersion => .obisVersion
  | .meterId => .meterId
  | .meterType => .meterType

/-- The field an unsigned integer item is (42_decoder_body.md R97). -/
def u32Field : U32Field → Field
  | .pImp => .pImp
  | .pExp => .pExp
  | .qImp => .qImp
  | .qExp => .qExp
  | .ul1 => .ul1
  | .ul2 => .ul2
  | .ul3 => .ul3
  | .eAImp => .eAImp
  | .eAExp => .eAExp
  | .eRImp => .eRImp
  | .eRExp => .eRExp

/-- The field a signed integer item is (42_decoder_body.md R98). -/
def s32Field : S32Field → Field
  | .il1 => .il1
  | .il2 => .il2
  | .il3 => .il3

/-- The bit of `REC.mask` a field has (30_encoding.md R63). -/
def maskBit (f : Field) : BitVec 32 := 1#32 <<< (fieldId f).toNat

/-- Bit `f` of `mask` set, as reading the field does (41_decoder_frame.md R84). -/
def Rec.mark (f : Field) (r : Rec) : Rec := { r with mask := r.mask ||| maskBit f }

/-- A FormatError's reason code (60_exceptions.md R129). -/
def FmtReason.code : FmtReason → BitVec 3
  | .tagMismatch => 1#3
  | .overrun => 2#3
  | .lengthMismatch => 3#3
  | .trailing => 4#3

/-- A StreamError's reason code, which is also its `serr_code` (60_exceptions.md R129). -/
def StreamReason.code : StreamReason → BitVec 2
  | .eos => 1#2
  | .io => 2#2
  | .cancelled => 3#2

/-- The record of an error (60_exceptions.md R128 to R130). -/
def Err.record : Err → ErrRec
  | .format reason field offset byte => ⟨1#3, reason.code, fieldId field, BitVec.ofNat 12 offset, byte⟩
  | .unsupportedVariant count => ⟨2#3, 0#3, fieldId .count, 31#12, count⟩
  | .stream reason sync wp =>
    ⟨3#3, reason.code.setWidth 3, (syncCode sync).setWidth 5, if sync = .seek then 0#12 else wp, 0#8⟩
  | .sink => ⟨4#3, 0#3, 0#5, 0#12, 0#8⟩

/-- A FormatError, which counts in `cnt_fmt` and sets `fmt_seen` (60_exceptions.md R131). -/
def Err.isFormat : Err → Bool
  | .format _ _ _ _ => true
  | .unsupportedVariant _ | .stream _ _ _ | .sink => false

/-- An UnsupportedVariantError, which counts in `cnt_var` and sets `var_seen` (60_exceptions.md R131). -/
def Err.isVariant : Err → Bool
  | .unsupportedVariant _ => true
  | .format _ _ _ _ | .stream _ _ _ | .sink => false

/-- A SinkError, which sets `sink_seen` (60_exceptions.md R131). -/
def Err.isSink : Err → Bool
  | .sink => true
  | .format _ _ _ _ | .unsupportedVariant _ | .stream _ _ _ => false

/-- `b` as an event's increment of a counter. -/
def tick (b : Bool) : BitVec 32 := if b then 1#32 else 0#32

/-- The STATUS register (44_host_interface.md R120). -/
def State.statusWord (s : State) : Word32 :=
  0#14 ++ s.serrCode ++ 0#5 ++ BitVec.ofBool s.sinkSeen ++ BitVec.ofBool s.varSeen ++ BitVec.ofBool s.fmtSeen ++
    0#3 ++ BitVec.ofBool s.cancelPending ++ syncCode s.sync ++ s.phase.code

/-- The ERR_INFO register (44_host_interface.md R125). -/
def State.errInfoWord (s : State) : Word32 :=
  0#8 ++ s.err.byte ++ 0#3 ++ s.err.field ++ 0#1 ++ s.err.reason ++ 0#1 ++ s.err.kind

/-- The sticky flags a STATUS write clears: those whose bit, 8 to 10, it writes 1 (44_host_interface.md R121). -/
def State.clearFlags (w : Word32) (s : State) : State :=
  { s with
    fmtSeen := s.fmtSeen && !w.getLsbD 8
    varSeen := s.varSeen && !w.getLsbD 9
    sinkSeen := s.sinkSeen && !w.getLsbD 10 }

/-- Whether the step of this edge raised an error of a kind: the log port tells (10_state.md R17). -/
def State.raisedNow (s : State) (kind : BitVec 3) : Bool :=
  match s.out.log with
  | none => false
  | some r => r.kind == kind

/-- A sticky flag the block step of this edge set stays set (44_host_interface.md R116, exception 1). -/
def State.keepRaised (s : State) : State :=
  { s with
    fmtSeen := s.fmtSeen || s.raisedNow 1#3
    varSeen := s.varSeen || s.raisedNow 2#3
    sinkSeen := s.sinkSeen || s.raisedNow 4#3 }

end Sys2Proof.Machine
end

