-- ==== Sys2Proof/Machine/Operands.lean ====
section
/-! DEFINITION. Operands: the frame length and what it makes of a capture, and the numeric fields of the record with their
exact physical values. -/

namespace Sys2Proof.Machine

/-- The frame length `L = c[2:0] ++ b`, from the format byte and the length byte (30_encoding.md R51; 40_synchronizer.md R72). -/
def frameLength (c b : Byte) : BitVec 11 := c.extractLsb' 0 3 ++ b

/-- The bytes still due after the length byte: `L - 1`, or none for `L = 0` (40_synchronizer.md R72). -/
def bytesDue (len : BitVec 11) : FbIndex := if len = 0#11 then 0#12 else len.setWidth 12 - 1#12

/-- The bytes a whole capture takes: `L + 2`, or 3 for `L = 0` (40_synchronizer.md R75). -/
def captureSize (len : BitVec 11) : Nat := if len = 0#11 then 3 else len.toNat + 2

/-- `toSigned32` (00_scope.md R9). PRESUMED, log entry 11: that a signed wire integer is two's complement is the spec's own
general knowledge (93_implementation_defined.md G4). -/
def toSigned32 (v : Word32) : Int := if v.getLsbD 31 then (v.toNat : Int) - 4294967296 else (v.toNat : Int)

/-- `scaled(raw, D)`, an exact rational (00_scope.md R11). -/
def scaled (raw : Int) (divisor : Nat) : Rat := (raw : Rat) / (divisor : Rat)

/-- The record register of an unsigned integer field (10_state.md R32). -/
def Rec.u32 (r : Rec) : U32Field → Word32
  | .pImp => r.pImp
  | .pExp => r.pExp
  | .qImp => r.qImp
  | .qExp => r.qExp
  | .ul1 => r.ul1
  | .ul2 => r.ul2
  | .ul3 => r.ul3
  | .eAImp => r.eAImp
  | .eAExp => r.eAExp
  | .eRImp => r.eRImp
  | .eRExp => r.eRExp

/-- The record with an unsigned integer field written (42_decoder_body.md R97). -/
def Rec.setU32 (r : Rec) (f : U32Field) (v : Word32) : Rec :=
  match f with
  | .pImp => { r with pImp := v }
  | .pExp => { r with pExp := v }
  | .qImp => { r with qImp := v }
  | .qExp => { r with qExp := v }
  | .ul1 => { r with ul1 := v }
  | .ul2 => { r with ul2 := v }
  | .ul3 => { r with ul3 := v }
  | .eAImp => { r with eAImp := v }
  | .eAExp => { r with eAExp := v }
  | .eRImp => { r with eRImp := v }
  | .eRExp => { r with eRExp := v }

/-- The record register of a signed integer field, its 32 bits as read (42_decoder_body.md R98). -/
def Rec.s32 (r : Rec) : S32Field → Word32
  | .il1 => r.il1
  | .il2 => r.il2
  | .il3 => r.il3

/-- The record with a signed integer field written (42_decoder_body.md R98). -/
def Rec.setS32 (r : Rec) (f : S32Field) (v : Word32) : Rec :=
  match f with
  | .il1 => { r with il1 := v }
  | .il2 => { r with il2 := v }
  | .il3 => { r with il3 := v }

/-- The record register of a text field (42_decoder_body.md R96). -/
def Rec.text (r : Rec) : TextField → TextRef
  | .obisVersion => r.obis
  | .meterId => r.mid
  | .meterType => r.mtype

/-- The record with a text field written (42_decoder_body.md R96). -/
def Rec.setText (r : Rec) (f : TextField) (t : TextRef) : Rec :=
  match f with
  | .obisVersion => { r with obis := t }
  | .meterId => { r with mid := t }
  | .meterType => { r with mtype := t }

/-- The divisor of an unsigned integer field (42_decoder_body.md R105). -/
def u32Divisor : U32Field → Nat
  | .pImp | .pExp | .qImp | .qExp => Config.divPower
  | .ul1 | .ul2 | .ul3 => Config.divVoltage
  | .eAImp | .eAExp | .eRImp | .eRExp => Config.divEnergy

/-- The physical value of an unsigned integer field (42_decoder_body.md R105). -/
def Rec.physicalU32 (r : Rec) (f : U32Field) : Rat := scaled ((r.u32 f).toNat : Int) (u32Divisor f)

/-- The physical value of a current, in amperes (42_decoder_body.md R105). -/
def Rec.physicalS32 (r : Rec) (f : S32Field) : Rat := scaled (toSigned32 (r.s32 f)) Config.divCurrent

end Sys2Proof.Machine
end

