-- ==== Sys2Proof/Machine/Ops.lean ====
section
/-! DEFINITION. The operations the meanings share: the frame buffer, the ports, completing a capture, raising an error and
what follows it, reset, and the decoder's primitives. -/

namespace Sys2Proof.Machine

/-- What an instruction or a step answers. -/
abbrev Result := Host.Outcome State Fault Refusal

/-- One answer after another. -/
def andThen (r : Result) (f : State → Result) : Result :=
  match r with
  | .next s => f s
  | .fault e => .fault e
  | .refused e => .refused e

/-! ### The frame buffer (20_memory.md R37 to R41) -/

/-- The byte written at an index, `none` where nothing has written since power-up. -/
def Memory.read (m : Memory) (a : Nat) : Option Byte :=
  match m with
  | [] => none
  | (k, v) :: rest => if k = a then some v else Memory.read rest a

/-- One byte written, the cells kept in rising order. -/
def Memory.write (m : Memory) (a : Nat) (v : Byte) : Memory :=
  match m with
  | [] => [(a, v)]
  | (k, x) :: rest =>
    if a < k then (a, v) :: (k, x) :: rest
    else if a = k then (a, v) :: rest
    else (k, x) :: Memory.write rest a v

/-- Bytes written from an index on. -/
def Memory.writeList (m : Memory) (a : Nat) (bs : List Byte) : Memory :=
  match bs with
  | [] => m
  | b :: rest => Memory.writeList (Memory.write m a b) (a + 1) rest

/-- The cells from `lo` on have strictly rising indices that the buffer has. -/
def Memory.wfFrom (lo : Nat) (m : Memory) : Bool :=
  match m with
  | [] => true
  | (k, _) :: rest => decide (lo ≤ k) && decide (k < Config.fbBytes) && Memory.wfFrom (k + 1) rest

/-- The canonical form: strictly rising indices, none above 2048. An unlisted index holds no value, so no cell can equal
what it holds. -/
def Memory.wf (m : Memory) : Bool := Memory.wfFrom 0 m

/-- A read of the frame buffer: `0x00` above index 2048, the byte there otherwise, whatever it is (20_memory.md R39). A byte
nothing has written reads as its free value (93_implementation_defined.md I4, I5; log entry 3). -/
def fbRead (m : Memory) (a : Nat) : Byte :=
  if a < Config.fbBytes then (Memory.read m a).getD (Config.fbPowerUp a) else 0x00#8

/-- `FB[i] <- v`, for an index that exists (20_memory.md R37, R38). -/
def State.storeByte (s : State) (i : FbIndex) (v : Byte) : Except Fault State :=
  if i.toNat < Config.fbBytes then .ok { s with fb := Memory.write s.fb i.toNat v } else .error (.fbOutOfRange i)

/-- Byte `i` of the captured frame. The decoder reads only below `FB_LEN` (20_memory.md R39, 41_decoder_frame.md R81): a
byte past it is not looked at, and stands as 0 among the bits of a row that OVERRUN ends. -/
def State.frameByte (s : State) (i : Nat) : Byte := if i < s.fbLen.toNat then fbRead s.fb i else 0x00#8

/-- The `k` bytes of the captured frame from an index on. -/
def State.window (s : State) (cur k : Nat) : List Byte := (List.range k).map fun j => s.frameByte (cur + j)

/-! ### Ports -/

/-- `in_ready` (10_state.md R14). -/
def State.inReady (s : State) : Bool := s.phase == .sync && !s.cancelPending

/-- `out_valid` (10_state.md R15). -/
def State.outValid (s : State) : Bool := s.phase == .emit

/-- `halted` (10_state.md R19). -/
def State.halted (s : State) : Bool := s.phase == .halted

/-- `out_rec` (10_state.md R15). -/
def State.outRec (s : State) : Rec := s.record

/-- `sb_data` for an address (10_state.md R16). -/
def State.sbData (s : State) (a : FbIndex) : Byte := fbRead s.fb a.toNat

/-- The text bytes a text field of the record points at, as the sink reads them (42_decoder_body.md R96). -/
def State.textBytes (s : State) (f : TextField) : List Byte :=
  (List.range (s.record.text f).len.toNat).map fun j => fbRead s.fb ((s.record.text f).off.toNat + j)

/-- A host read's answer on `host_rdata`; nothing else changes (44_host_interface.md R115). -/
def State.hostReply (v : Word32) (s : State) : State := { s with out := { s.out with hostRdata := some v } }

/-! ### Errors: entry and return (60_exceptions.md R131, R134) -/

/-- Raising an error: the last-error registers, the log pulse, the kind's counter and sticky flag. Nothing else is saved;
the raising rule sets the next phase (R131). -/
def State.raise (e : Err) (s : State) : State :=
  { s with
    err := e.record
    out := { s.out with log := some e.record }
    cntFmt := s.cntFmt + tick e.isFormat
    fmtSeen := s.fmtSeen || e.isFormat
    cntVar := s.cntVar + tick e.isVariant
    varSeen := s.varSeen || e.isVariant
    sinkSeen := s.sinkSeen || e.isSink }

/-- The return after a per-frame error or a SinkError: back to seeking with the next token (R134). The locals of a decode
step are gone (41_decoder_frame.md R80). -/
def State.resume (s : State) : State := { s with phase := .sync, dec := none }

/-- A per-frame error (43_reader_loop.md R108). -/
def State.frameError (e : Err) (s : State) : State := (s.raise e).resume

/-- A stream error: recorded with the synchronizer's state and write pointer, and the run is over (40_synchronizer.md R76 to
R78). -/
def State.streamError (r : StreamReason) (s : State) : State :=
  { s.raise (.stream r s.sync s.wp) with serrCode := r.code, phase := .halted }

/-! ### The loop -/

/-- `capture_complete(n)` (40_synchronizer.md R75). -/
def State.captureComplete (n : BitVec 12) (s : State) : State :=
  { s with fbLen := n, cntCap := s.cntCap + 1#32, sync := .seek, win := 0x00#8, phase := .decode }

/-- A decode succeeded: the record is written whole and offered to the sink (43_reader_loop.md R107). -/
def State.commit (r : Rec) (s : State) : State :=
  { s with record := r, cntOk := s.cntOk + 1#32, phase := .emit, dec := none }

/-- `reset()`: every register at its reset value, `FB` not written (70_reset_and_hazards.md R141, R142). The pins to come and
what the sink's read port shows at this edge are no registers. -/
def State.softReset (s : State) : State :=
  { State.reset with fb := s.fb, edges := s.edges, out := { Out.zero with sbData := s.out.sbData } }

/-! ### The decoder's primitives (41_decoder_frame.md R80 to R83, R90) -/

/-- `need(k, f)`: the next `k` bytes lie inside the frame of `n` bytes (R81). -/
def need (n k : Nat) (f : Field) (d : Dec) : Except Err Unit :=
  if n < d.cur + k then .error (.format .overrun f d.cur 0x00#8) else .ok ()

/-- The cursor `k` bytes on (R80). -/
def Dec.advance (k : Nat) (d : Dec) : Dec := { d with cur := d.cur + k }

/-- `expect(v, f)`, where `b` is the byte at the cursor (R82). -/
def expect (n : Nat) (v b : Byte) (f : Field) (d : Dec) : Except Err Dec :=
  match need n 1 f d with
  | .error e => .error e
  | .ok _ => if b = v then .ok (d.advance 1) else .error (.format .tagMismatch f d.cur b)

/-- `read(k, f)` of a field whose value `put` writes into the record (R83). -/
def readField (n k : Nat) (f : Field) (put : Rec → Rec) (d : Dec) : Except Err Dec :=
  match need n k f d with
  | .error e => .error e
  | .ok _ => .ok { (d.advance k) with record := (put d.record).mark f }

/-- `tsitem(f)`, the payload written by `put` (R90). -/
def readTimestamp (n : Nat) (tag : Byte) (f : Field) (put : Rec → Rec) (d : Dec) : Except Err Dec :=
  match expect n Config.tagOctets tag f d with
  | .error e => .error e
  | .ok d1 => readField n Config.tsBytes f put d1

/-- The decode step at its start (R84). -/
def Dec.start (todo : List Place) : Dec := ⟨0, todo, Rec.zero⟩

/-- The wire row at a place of the captured frame, with the bits at the cursor; BODY is the variant row of the count already
read (42_decoder_body.md R95; log entry 20). -/
def State.wireInstr (s : State) (d : Dec) (p : Place) : Instr :=
  match p with
  | .body => variantOf d.record.count
  | p => assembleWire p (s.window d.cur (wireSize p (s.window d.cur 2)))

/-- A wire row inside a decode step: the row's effect on the step's locals, or its error, which ends the decode. Outside a
decode step no wire row stands anywhere and nothing happens (log entry 6). -/
def State.runDec (s : State) (f : Dec → Except Err Dec) : Result :=
  match s.dec with
  | none => .next s
  | some d =>
    match f d with
    | .ok d1 => .next { s with dec := some d1 }
    | .error e => .next (s.frameError e)

end Sys2Proof.Machine
end

