-- ==== Sys2Proof/Machine/HostPort.lean ====
section
/-! DEFINITION. The host commands and register reads (44_host_interface.md R115 to R127). Every access is allowed in every
phase (R115; 60_exceptions.md R136); a read only answers on `host_rdata`. -/

namespace Sys2Proof.Machine

/-- HOST_SRST (R118). -/
def execHostSrst (_lo : BitVec 2) (_wdata : Word32) (s : State) : Result := .next s.softReset

/-- HOST_CANCEL: ignored in HALTED (R119). -/
def execHostCancel (_lo : BitVec 2) (_wdata : Word32) (s : State) : Result :=
  if s.phase = .halted then .next s else .next { s with cancelPending := true }

/-- HOST_W1C_STATUS (R121). -/
def execHostW1cStatus (_lo : BitVec 2) (wdata : Word32) (s : State) : Result := .next (s.clearFlags wdata)

/-- HOST_WRITE FB_ADDR (R123). -/
def execHostWriteFbAddr (_lo : BitVec 2) (wdata : Word32) (s : State) : Result :=
  .next { s with fbAddr := wdata.extractLsb' 0 12 }

/-- HOST_WRITE elsewhere, or to CTRL with no command: ignored (R127). -/
def execHostWriteIgnored (_addr : Byte) (_wdata : Word32) (s : State) : Result := .next s

/-- HOST_READ CTRL: write-only, reads 0 (R117). -/
def execHostReadCtrl (_lo : BitVec 2) (_wdata : Word32) (s : State) : Result := .next (s.hostReply 0#32)

/-- HOST_READ STATUS (R120). -/
def execHostReadStatus (_lo : BitVec 2) (_wdata : Word32) (s : State) : Result := .next (s.hostReply s.statusWord)

/-- HOST_READ FB_LEN (R122). -/
def execHostReadFbLen (_lo : BitVec 2) (_wdata : Word32) (s : State) : Result :=
  .next (s.hostReply (s.fbLen.setWidth 32))

/-- HOST_READ FB_ADDR (R123). -/
def execHostReadFbAddr (_lo : BitVec 2) (_wdata : Word32) (s : State) : Result :=
  .next (s.hostReply (s.fbAddr.setWidth 32))

/-- HOST_READ FB_DATA: 0 above index 2048 (R124). -/
def execHostReadFbData (_lo : BitVec 2) (_wdata : Word32) (s : State) : Result :=
  .next (s.hostReply ((fbRead s.fb s.fbAddr.toNat).setWidth 32))

/-- HOST_READ ERR_INFO (R125). -/
def execHostReadErrInfo (_lo : BitVec 2) (_wdata : Word32) (s : State) : Result := .next (s.hostReply s.errInfoWord)

/-- HOST_READ ERR_OFFSET (R125). -/
def execHostReadErrOffset (_lo : BitVec 2) (_wdata : Word32) (s : State) : Result :=
  .next (s.hostReply (s.err.offset.setWidth 32))

/-- HOST_READ CNT_SEEK (R126). -/
def execHostReadCntSeek (_lo : BitVec 2) (_wdata : Word32) (s : State) : Result := .next (s.hostReply s.cntSeek)

/-- HOST_READ CNT_CAP (R126). -/
def execHostReadCntCap (_lo : BitVec 2) (_wdata : Word32) (s : State) : Result := .next (s.hostReply s.cntCap)

/-- HOST_READ CNT_OK (R126). -/
def execHostReadCntOk (_lo : BitVec 2) (_wdata : Word32) (s : State) : Result := .next (s.hostReply s.cntOk)

/-- HOST_READ CNT_FMT (R126). -/
def execHostReadCntFmt (_lo : BitVec 2) (_wdata : Word32) (s : State) : Result := .next (s.hostReply s.cntFmt)

/-- HOST_READ CNT_VAR (R126). -/
def execHostReadCntVar (_lo : BitVec 2) (_wdata : Word32) (s : State) : Result := .next (s.hostReply s.cntVar)

/-- HOST_READ CNT_SINKFAIL (R126). -/
def execHostReadCntSinkFail (_lo : BitVec 2) (_wdata : Word32) (s : State) : Result := .next (s.hostReply s.cntSinkFail)

/-- HOST_READ of an offset the map does not list: 0 (R117). -/
def execHostReadUnmapped (_addr : Byte) (_wdata : Word32) (s : State) : Result := .next (s.hostReply 0#32)

end Sys2Proof.Machine
end

