-- ==== Sys2Proof/Machine/Body.lean ====
section
/-! DEFINITION. The wire rows of the body: the four item kinds, the five variants and the unsupported counts
(42_decoder_body.md R95 to R104). -/

namespace Sys2Proof.Machine

/-- ITEM_TEXT on the locals: the record keeps where the content stands, not a copy of it (R96). -/
def readItemText (n : Nat) (f : TextField) (tag k : Byte) (d : Dec) : Except Err Dec :=
  match expect n Config.tagOctets tag (textField f) d with
  | .error e => .error e
  | .ok d1 =>
    match need n 1 (textField f) d1 with
    | .error e => .error e
    | .ok _ =>
      let d2 := d1.advance 1
      readField n k.toNat (textField f) (fun r => r.setText f ⟨BitVec.ofNat 12 d2.cur, k⟩) d2

/-- ITEM_TEXT (R96). The content bytes are opaque: only how many there are matters. -/
def execItemText (f : TextField) (tag k : Byte) (_content : List Byte) (s : State) : Result :=
  s.runDec (readItemText s.fbLen.toNat f tag k)

/-- ITEM_U32 on the locals (R97). -/
def readItemU32 (n : Nat) (f : U32Field) (tag : Byte) (v : Word32) (d : Dec) : Except Err Dec :=
  match expect n Config.tagInt tag (u32Field f) d with
  | .error e => .error e
  | .ok d1 => readField n 4 (u32Field f) (fun r => r.setU32 f v) d1

/-- ITEM_U32 (R97). -/
def execItemU32 (f : U32Field) (tag : Byte) (v : Word32) (s : State) : Result :=
  s.runDec (readItemU32 s.fbLen.toNat f tag v)

/-- ITEM_S32 on the locals: the 32 bits as read (R98). -/
def readItemS32 (n : Nat) (f : S32Field) (tag : Byte) (v : Word32) (d : Dec) : Except Err Dec :=
  match expect n Config.tagInt tag (s32Field f) d with
  | .error e => .error e
  | .ok d1 => readField n 4 (s32Field f) (fun r => r.setS32 f v) d1

/-- ITEM_S32 (R98). -/
def execItemS32 (f : S32Field) (tag : Byte) (v : Word32) (s : State) : Result :=
  s.runDec (readItemS32 s.fbLen.toNat f tag v)

/-- ITEM_E_TS on the locals (R99). -/
def readItemETs (n : Nat) (tag : Byte) (t : Timestamp) (d : Dec) : Except Err Dec :=
  readTimestamp n tag .eTs (fun r => { r with ets := t }) d

/-- ITEM_E_TS (R99). -/
def execItemETs (tag : Byte) (t : Timestamp) (s : State) : Result := s.runDec (readItemETs s.fbLen.toNat tag t)

/-! ### The item sequences (30_encoding.md R60) -/

/-- The meter identity block. -/
def identityItems : List Place := [.text .obisVersion, .text .meterId, .text .meterType]

/-- The four powers. -/
def powerItems : List Place := [.u32 .pImp, .u32 .pExp, .u32 .qImp, .u32 .qExp]

/-- The energy block. -/
def energyItems : List Place := [.eTs, .u32 .eAImp, .u32 .eAExp, .u32 .eRImp, .u32 .eRExp]

/-- Count 1. -/
def items1 : List Place := [.u32 .pImp]

/-- Count 9. -/
def items9 : List Place := identityItems ++ powerItems ++ [.s32 .il1, .u32 .ul1]

/-- Count 13. -/
def items13 : List Place :=
  identityItems ++ powerItems ++ [.s32 .il1, .s32 .il2, .s32 .il3, .u32 .ul1, .u32 .ul2, .u32 .ul3]

/-- Count 14: the items of count 9 and the energy block. -/
def items14 : List Place := items9 ++ energyItems

/-- Count 18: the items of count 13 and the energy block. -/
def items18 : List Place := items13 ++ energyItems

/-- The effect of an item row on the locals; no other row stands in a body. -/
def readItem (n : Nat) (i : Instr) (d : Dec) : Except Err Dec :=
  match i with
  | .itemText f tag k _ => readItemText n f tag k d
  | .itemU32 f tag v => readItemU32 n f tag v d
  | .itemS32 f tag v => readItemS32 n f tag v d
  | .itemETs tag t => readItemETs n tag t d
  | _ => .ok d

/-- Items read one after another, each at the cursor the one before it left; the first error ends it (41_decoder_frame.md R84). -/
def readItems (s : State) (places : List Place) (d : Dec) : Except Err Dec :=
  match places with
  | [] => .ok d
  | p :: rest =>
    match readItem s.fbLen.toNat (s.wireInstr d p) d with
    | .ok d1 => readItems s rest d1
    | .error e => .error e

/-- A variant: its code, then its items (R95). -/
def readVariant (s : State) (code : BitVec 3) (places : List Place) (d : Dec) : Except Err Dec :=
  readItems s places { d with record := { d.record with variant := code } }

/-- VARIANT_1 on the locals (R100). -/
def readVariant1 (s : State) (d : Dec) : Except Err Dec := readVariant s 0#3 items1 d

/-- VARIANT_1 (R100). -/
def execVariant1 (s : State) : Result := s.runDec (readVariant1 s)

/-- VARIANT_9 on the locals (R101). -/
def readVariant9 (s : State) (d : Dec) : Except Err Dec := readVariant s 1#3 items9 d

/-- VARIANT_9 (R101). -/
def execVariant9 (s : State) : Result := s.runDec (readVariant9 s)

/-- VARIANT_13 on the locals (R102). -/
def readVariant13 (s : State) (d : Dec) : Except Err Dec := readVariant s 2#3 items13 d

/-- VARIANT_13 (R102). -/
def execVariant13 (s : State) : Result := s.runDec (readVariant13 s)

/-- VARIANT_14 on the locals (R103). -/
def readVariant14 (s : State) (d : Dec) : Except Err Dec := readVariant s 3#3 items14 d

/-- VARIANT_14 (R103). -/
def execVariant14 (s : State) : Result := s.runDec (readVariant14 s)

/-- VARIANT_18 on the locals (R104). -/
def readVariant18 (s : State) (d : Dec) : Except Err Dec := readVariant s 4#3 items18 d

/-- VARIANT_18 (R104). -/
def execVariant18 (s : State) : Result := s.runDec (readVariant18 s)

/-- VARIANT_UNSUPPORTED on the locals: no body byte is read (R95). -/
def readVariantUnsupported (v : Byte) (_d : Dec) : Except Err Dec := .error (.unsupportedVariant v)

/-- VARIANT_UNSUPPORTED (R95). -/
def execVariantUnsupported (v : Byte) (s : State) : Result := s.runDec (readVariantUnsupported v)

end Sys2Proof.Machine
end

