-- ==== Sys2Proof/Machine/Frame.lean ====
section
/-! DEFINITION. The wire rows every frame has: header, Meta, message timestamp, item count and footer (41_decoder_frame.md
R85 to R93). Each has its effect on the locals of a decode step (`read…`), and its meaning, that effect inside a decode step. -/

namespace Sys2Proof.Machine

/-- START_TAG on the locals (R85). -/
def readStartTag (n : Nat) (tag : Byte) (d : Dec) : Except Err Dec :=
  match expect n Config.startTag tag .startTag d with
  | .error e => .error e
  | .ok d1 => .ok { d1 with record := d1.record.mark .startTag }

/-- START_TAG (R85). -/
def execStartTag (tag : Byte) (s : State) : Result := s.runDec (readStartTag s.fbLen.toNat tag)

/-- FRAME_INFO on the locals, with the declared-length check, whose record gives offset 1 and the byte there (R86; 60_exceptions.md
R130). The format nibble and the separator are not checked (R94). -/
def readFrameInfo (n : Nat) (format : BitVec 4) (sep : BitVec 1) (len : BitVec 11) (d : Dec) : Except Err Dec :=
  match readField n 2 .frameInfo
      (fun r => { r with hdr := { r.hdr with format := format, sep := sep, len := len } }) d with
  | .error e => .error e
  | .ok d1 =>
    if n = len.toNat + 2 then .ok d1
    else .error (.format .lengthMismatch .frameInfo 1 (format ++ sep ++ len.extractLsb' 8 3))

/-- FRAME_INFO (R86). -/
def execFrameInfo (format : BitVec 4) (sep : BitVec 1) (len : BitVec 11) (s : State) : Result :=
  s.runDec (readFrameInfo s.fbLen.toNat format sep len)

/-- DEST_ADDR on the locals (R87). -/
def readDestAddr (n : Nat) (a : Byte) (d : Dec) : Except Err Dec :=
  readField n 1 .destAddr (fun r => { r with hdr := { r.hdr with dest := a } }) d

/-- DEST_ADDR (R87). -/
def execDestAddr (a : Byte) (s : State) : Result := s.runDec (readDestAddr s.fbLen.toNat a)

/-- SRC_ADDR on the locals (R87). -/
def readSrcAddr (n : Nat) (a : BitVec 16) (d : Dec) : Except Err Dec :=
  readField n 2 .srcAddr (fun r => { r with hdr := { r.hdr with src := a } }) d

/-- SRC_ADDR (R87). -/
def execSrcAddr (a : BitVec 16) (s : State) : Result := s.runDec (readSrcAddr s.fbLen.toNat a)

/-- CONTROL on the locals (R87). -/
def readControl (n : Nat) (c : Byte) (d : Dec) : Except Err Dec :=
  readField n 1 .control (fun r => { r with hdr := { r.hdr with ctrl := c } }) d

/-- CONTROL (R87). -/
def execControl (c : Byte) (s : State) : Result := s.runDec (readControl s.fbLen.toNat c)

/-- HCS on the locals: raw, never compared (R88). -/
def readHcs (n : Nat) (h : BitVec 16) (d : Dec) : Except Err Dec :=
  readField n 2 .hcs (fun r => { r with hdr := { r.hdr with hcs := h } }) d

/-- HCS (R88). -/
def execHcs (h : BitVec 16) (s : State) : Result := s.runDec (readHcs s.fbLen.toNat h)

/-- META on the locals: eight bytes, none checked (R89). -/
def readMetaBlock (n : Nat) (lsapDst lsapSrc llc : Byte) (reserved : BitVec 40) (d : Dec) : Except Err Dec :=
  readField n Config.metaBytes .metaBlock
    (fun r => { r with link := ⟨lsapDst, lsapSrc, llc, reserved⟩ }) d

/-- META (R89). -/
def execMetaBlock (lsapDst lsapSrc llc : Byte) (reserved : BitVec 40) (s : State) : Result :=
  s.runDec (readMetaBlock s.fbLen.toNat lsapDst lsapSrc llc reserved)

/-- MSG_TS on the locals (R90, R91). -/
def readMsgTs (n : Nat) (tag : Byte) (t : Timestamp) (d : Dec) : Except Err Dec :=
  readTimestamp n tag .msgTs (fun r => { r with ts := t }) d

/-- MSG_TS (R91). -/
def execMsgTs (tag : Byte) (t : Timestamp) (s : State) : Result := s.runDec (readMsgTs s.fbLen.toNat tag t)

/-- COUNT on the locals: any value is read (R92). -/
def readCount (n : Nat) (tag v : Byte) (d : Dec) : Except Err Dec :=
  match expect n Config.tagCount tag .count d with
  | .error e => .error e
  | .ok d1 => readField n 1 .count (fun r => { r with count := v }) d1

/-- COUNT (R92). -/
def execCount (tag v : Byte) (s : State) : Result := s.runDec (readCount s.fbLen.toNat tag v)

/-- FCS, END_TAG and FRAME_END on the locals (R93): the frame ends right after the end tag, or the byte that follows it is
reported. -/
def readFcsEndTag (s : State) (fcs : BitVec 16) (tag : Byte) (d : Dec) : Except Err Dec :=
  match readField s.fbLen.toNat 2 .fcs (fun r => { r with fcs := fcs }) d with
  | .error e => .error e
  | .ok d1 =>
    match expect s.fbLen.toNat Config.endTag tag .endTag d1 with
    | .error e => .error e
    | .ok d2 =>
      if d2.cur = s.fbLen.toNat then .ok { d2 with record := d2.record.mark .endTag }
      else .error (.format .trailing .frameEnd d2.cur (s.frameByte d2.cur))

/-- FCS_END_TAG (R93). -/
def execFcsEndTag (fcs : BitVec 16) (tag : Byte) (s : State) : Result := s.runDec (readFcsEndTag s fcs tag)

end Sys2Proof.Machine
end

