-- ==== Sys2Proof/Machine/Loop.lean ====
section
/-! DEFINITION. The reader loop: the decode step and the sink's two answers (43_reader_loop.md R107 to R110). -/

namespace Sys2Proof.Machine

/-- The effect of a wire row on the locals of a decode step; no other row stands in a frame. -/
def readWire (s : State) (i : Instr) (d : Dec) : Except Err Dec :=
  match i with
  | .startTag tag => readStartTag s.fbLen.toNat tag d
  | .frameInfo format sep len => readFrameInfo s.fbLen.toNat format sep len d
  | .destAddr a => readDestAddr s.fbLen.toNat a d
  | .srcAddr a => readSrcAddr s.fbLen.toNat a d
  | .control c => readControl s.fbLen.toNat c d
  | .hcs h => readHcs s.fbLen.toNat h d
  | .metaBlock lsapDst lsapSrc llc reserved => readMetaBlock s.fbLen.toNat lsapDst lsapSrc llc reserved d
  | .msgTs tag t => readMsgTs s.fbLen.toNat tag t d
  | .count tag v => readCount s.fbLen.toNat tag v d
  | .variant1 => readVariant1 s d
  | .variant9 => readVariant9 s d
  | .variant13 => readVariant13 s d
  | .variant14 => readVariant14 s d
  | .variant18 => readVariant18 s d
  | .variantUnsupported v => readVariantUnsupported v d
  | .itemText f tag k _ => readItemText s.fbLen.toNat f tag k d
  | .itemU32 f tag v => readItemU32 s.fbLen.toNat f tag v d
  | .itemS32 f tag v => readItemS32 s.fbLen.toNat f tag v d
  | .itemETs tag t => readItemETs s.fbLen.toNat tag t d
  | .fcsEndTag fcs tag => readFcsEndTag s fcs tag d
  | _ => .ok d

/-- The places of a frame in the source's fixed order (41_decoder_frame.md R84). -/
def decodeOrder : List Place :=
  [.startTag, .frameInfo, .destAddr, .srcAddr, .control, .hcs, .metaBlock, .msgTs, .count, .body, .footer]

/-- The rows of a list of places, each at the cursor the one before it left; the first error ends it (R84). -/
def readPlaces (s : State) (places : List Place) (d : Dec) : Except Err Dec :=
  match places with
  | [] => .ok d
  | p :: rest =>
    match readWire s (s.wireInstr d p) d with
    | .ok d1 => readPlaces s rest d1
    | .error e => .error e

/-- `Decode(FB, FB_LEN)`: a full record, or the first error (41_decoder_frame.md R80, R84). It changes no state. -/
def State.decodeFrame (s : State) : Except Err Rec :=
  match readPlaces s decodeOrder (Dec.start []) with
  | .ok d => .ok d.record
  | .error e => .error e

/-- DECODE_STEP: one atomic step (R107, R108). -/
def execDecodeStep (s : State) : Result :=
  if s.phase = .decode then
    match s.decodeFrame with
    | .ok r => .next (s.commit r)
    | .error e => .next (s.frameError e)
  else .next s

/-- SINK_ACK (R109). `REC` keeps its value. -/
def execSinkAck (s : State) : Result :=
  if s.phase = .emit then .next { s with phase := .sync } else .next s

/-- SINK_FAIL (R110). The record is not offered again. -/
def execSinkFail (s : State) : Result :=
  if s.phase = .emit then
    .next { s.raise .sink with cntSinkFail := s.cntSinkFail + 1#32, phase := .sync }
  else .next s

/-- A decode step opened: every place still to read, the cursor at 0 (41_decoder_frame.md R84; log entry 2). -/
def State.beginDecode (s : State) : State := { s with dec := some (Dec.start decodeOrder) }

end Sys2Proof.Machine
end

