-- ==== Sys2Proof/Machine/Sync.lean ====
section
/-! DEFINITION. The synchronizer's instructions (40_synchronizer.md R69 to R78). Each happens where its row's condition
holds; elsewhere no token transfers and nothing happens (10_state.md R13; log entry 6). -/

namespace Sys2Proof.Machine

/-- SEEK_BYTE (R70). -/
def execSeekByte (b : Byte) (s : State) : Result :=
  if s.inReady = true ∧ s.sync = .seek ∧ startCandidate s.win b = false then
    .next { s with cntSeek := s.cntSeek + 1#32, win := b }
  else .next s

/-- SEEK_START (R71). -/
def execSeekStart (b : Byte) (s : State) : Result :=
  if s.inReady = true ∧ s.sync = .seek ∧ startCandidate s.win b = true then
    .next { s with
      cntSeek := s.cntSeek + 1#32
      win := b
      fb := Memory.write (Memory.write s.fb 0 Config.startTag) 1 b
      wp := 2#12
      sync := .len }
  else .next s

/-- LEN_BYTE (R72): the length, and either the bytes due or the completed 3-byte capture. -/
def execLenByte (b : Byte) (s : State) : Result :=
  if s.inReady = true ∧ s.sync = .len then
    let len := frameLength (fbRead s.fb 1) b
    let sized : State := { s with fb := Memory.write s.fb 2 b, flen := len, wp := 3#12 }
    if bytesDue len = 0#12 then .next (sized.captureComplete 3#12)
    else .next { sized with rem := bytesDue len, sync := .body }
  else .next s

/-- BODY_BYTE (R73). -/
def execBodyByte (b : Byte) (s : State) : Result :=
  if s.inReady = true ∧ s.sync = .body ∧ 1 < s.rem.toNat then
    match s.storeByte s.wp b with
    | .ok t => .next { t with wp := s.wp + 1#12, rem := s.rem - 1#12 }
    | .error e => .fault e
  else .next s

/-- BODY_LAST (R74, R75). -/
def execBodyLast (b : Byte) (s : State) : Result :=
  if s.inReady = true ∧ s.sync = .body ∧ s.rem = 1#12 then
    match s.storeByte s.wp b with
    | .ok t => .next (State.captureComplete (s.wp + 1#12) { t with rem := 0#12 })
    | .error e => .fault e
  else .next s

/-- STREAM_EOS (R76). The token's data bits are ignored. -/
def execStreamEos (_ignored : Byte) (s : State) : Result :=
  if s.inReady = true then .next (s.streamError .eos) else .next s

/-- STREAM_IOERR (R77). The token's other bits are ignored. -/
def execStreamIoerr (_ignored : BitVec 9) (s : State) : Result :=
  if s.inReady = true then .next (s.streamError .io) else .next s

/-- CANCEL_TAKE (R78): `cancel_pending` stays 1. -/
def execCancelTake (s : State) : Result :=
  if s.phase = .sync ∧ s.cancelPending = true then .next (s.streamError .cancelled) else .next s

end Sys2Proof.Machine
end

