-- ==== Sys2Proof/Machine/Dispatch.lean ====
section
/-! DEFINITION. One arm for each constructor of Instr. -/

namespace Sys2Proof.Machine

def exec (i : Instr) (s : State) : Host.Outcome State Fault Refusal :=
  match i with
  | .seekByte b => Sys2Proof.Machine.execSeekByte b s
  | .seekStart b => Sys2Proof.Machine.execSeekStart b s
  | .lenByte b => Sys2Proof.Machine.execLenByte b s
  | .bodyByte b => Sys2Proof.Machine.execBodyByte b s
  | .bodyLast b => Sys2Proof.Machine.execBodyLast b s
  | .streamEos ignored => Sys2Proof.Machine.execStreamEos ignored s
  | .streamIoerr ignored => Sys2Proof.Machine.execStreamIoerr ignored s
  | .cancelTake => Sys2Proof.Machine.execCancelTake s
  | .startTag tag => Sys2Proof.Machine.execStartTag tag s
  | .frameInfo format sep len => Sys2Proof.Machine.execFrameInfo format sep len s
  | .destAddr a => Sys2Proof.Machine.execDestAddr a s
  | .srcAddr a => Sys2Proof.Machine.execSrcAddr a s
  | .control c => Sys2Proof.Machine.execControl c s
  | .hcs h => Sys2Proof.Machine.execHcs h s
  | .metaBlock lsapDst lsapSrc llc reserved => Sys2Proof.Machine.execMetaBlock lsapDst lsapSrc llc reserved s
  | .msgTs tag t => Sys2Proof.Machine.execMsgTs tag t s
  | .count tag n => Sys2Proof.Machine.execCount tag n s
  | .variant1 => Sys2Proof.Machine.execVariant1 s
  | .variant9 => Sys2Proof.Machine.execVariant9 s
  | .variant13 => Sys2Proof.Machine.execVariant13 s
  | .variant14 => Sys2Proof.Machine.execVariant14 s
  | .variant18 => Sys2Proof.Machine.execVariant18 s
  | .variantUnsupported n => Sys2Proof.Machine.execVariantUnsupported n s
  | .itemText f tag k content => Sys2Proof.Machine.execItemText f tag k content s
  | .itemU32 f tag v => Sys2Proof.Machine.execItemU32 f tag v s
  | .itemS32 f tag v => Sys2Proof.Machine.execItemS32 f tag v s
  | .itemETs tag t => Sys2Proof.Machine.execItemETs tag t s
  | .fcsEndTag fcs tag => Sys2Proof.Machine.execFcsEndTag fcs tag s
  | .decodeStep => Sys2Proof.Machine.execDecodeStep s
  | .sinkAck => Sys2Proof.Machine.execSinkAck s
  | .sinkFail => Sys2Proof.Machine.execSinkFail s
  | .hostSrst lo wdata => Sys2Proof.Machine.execHostSrst lo wdata s
  | .hostCancel lo wdata => Sys2Proof.Machine.execHostCancel lo wdata s
  | .hostW1cStatus lo wdata => Sys2Proof.Machine.execHostW1cStatus lo wdata s
  | .hostWriteFbAddr lo wdata => Sys2Proof.Machine.execHostWriteFbAddr lo wdata s
  | .hostWriteIgnored addr wdata => Sys2Proof.Machine.execHostWriteIgnored addr wdata s
  | .hostReadCtrl lo wdata => Sys2Proof.Machine.execHostReadCtrl lo wdata s
  | .hostReadStatus lo wdata => Sys2Proof.Machine.execHostReadStatus lo wdata s
  | .hostReadFbLen lo wdata => Sys2Proof.Machine.execHostReadFbLen lo wdata s
  | .hostReadFbAddr lo wdata => Sys2Proof.Machine.execHostReadFbAddr lo wdata s
  | .hostReadFbData lo wdata => Sys2Proof.Machine.execHostReadFbData lo wdata s
  | .hostReadErrInfo lo wdata => Sys2Proof.Machine.execHostReadErrInfo lo wdata s
  | .hostReadErrOffset lo wdata => Sys2Proof.Machine.execHostReadErrOffset lo wdata s
  | .hostReadCntSeek lo wdata => Sys2Proof.Machine.execHostReadCntSeek lo wdata s
  | .hostReadCntCap lo wdata => Sys2Proof.Machine.execHostReadCntCap lo wdata s
  | .hostReadCntOk lo wdata => Sys2Proof.Machine.execHostReadCntOk lo wdata s
  | .hostReadCntFmt lo wdata => Sys2Proof.Machine.execHostReadCntFmt lo wdata s
  | .hostReadCntVar lo wdata => Sys2Proof.Machine.execHostReadCntVar lo wdata s
  | .hostReadCntSinkFail lo wdata => Sys2Proof.Machine.execHostReadCntSinkFail lo wdata s
  | .hostReadUnmapped addr wdata => Sys2Proof.Machine.execHostReadUnmapped addr wdata s

end Sys2Proof.Machine
end

