-- ==== Sys2Proof/Machine/Fetch.lean ====
section
/-! DEFINITION. What a step runs: the edge taken from the pins to come, the block's row at that edge, the host's access, and
how an instruction is placed so that the next step runs it. -/

namespace Sys2Proof.Machine

/-- An edge at which the environment offers nothing, and the block's own enabled step happens (log entry 1). -/
def Edge.idle : Edge := ⟨false, none, 0b00#2, none, none, true⟩

/-- The next edge: the oldest of those to come, an idle one where none is listed. -/
def State.nextEdge (s : State) : Edge := s.edges.headD Edge.idle

/-- The state as an edge begins: the edge taken, the outputs of the last one gone, and the sink's read port showing the byte
it looks at (10_state.md R16, R17). -/
def State.atEdge (s : State) : State :=
  { s with edges := s.edges.tail, out := ⟨none, none, s.nextEdge.sbAddr.map s.sbData⟩ }

/-- Where the input port stands (40_synchronizer.md R69). -/
def State.tokenPort (s : State) : Port := .token s.sync s.win s.rem

/-- The row the block runs at an edge, where one is enabled (10_state.md R20): a pending cancel outranks a token
(60_exceptions.md R133 item 5). -/
def blockInstr (e : Edge) (s : State) : Except Fault (Option Instr) :=
  match s.phase with
  | .sync =>
    if s.cancelPending then .ok (if e.internal then some .cancelTake else none)
    else
      match e.token with
      | none => .ok none
      | some t =>
        match decodeToken s.sync s.win s.rem t with
        | .ok i => .ok (some i)
        | .error _ => .error .bodyNothingDue
  | .decode => .ok (if e.internal then some .decodeStep else none)
  | .emit =>
    match decodeSink (1#1 ++ e.sink) with
    | .ok i => .ok (some i)
    | .error _ => .ok none
  | .halted => .ok none

/-- The host's access at an edge, by when it takes effect (44_host_interface.md R116). -/
inductive HostTurn where
  /-- no access -/
  | idle
  /-- a read: before the block step -/
  | read (i : Instr)
  /-- a write: after the block step -/
  | write (i : Instr)
  /-- a write of CTRL.SRST: instead of the block step -/
  | srst (i : Instr)
  deriving DecidableEq, Repr

/-- The host's access at an edge. -/
def hostTurn (e : Edge) : HostTurn :=
  match e.host with
  | none => .idle
  | some w =>
    if w.getLsbD 40 then
      match decodeHost w with
      | .hostSrst lo wdata => .srst (.hostSrst lo wdata)
      | i => .write i
    else .read (decodeHost w)

/-! ### Placing an instruction (log entry 8) -/

/-- The big-endian value of bytes. -/
def natOfBytes (bs : List Byte) : Nat := bs.foldl (fun n b => n * 256 + b.toNat) 0

/-- The offset at which a place stands in a frame, the first of its offsets for an item (30_encoding.md R50). -/
def placeOffset : Place → Nat
  | .startTag => 0
  | .frameInfo => 1
  | .destAddr => 3
  | .srcAddr => 4
  | .control => 6
  | .hcs => 7
  | .metaBlock => 9
  | .msgTs => 17
  | .count => 30
  | .body | .text _ | .u32 _ | .s32 _ | .eTs | .footer => 32

/-- A decode step open at a place with a row's bytes in the frame there; the variant row's bytes are the count item just
before it (42_decoder_body.md R95). -/
def State.placeWire (p : Place) (bs : List Byte) (s : State) : State :=
  match p with
  | .body =>
    { s with
      fb := Memory.writeList s.fb 30 bs
      fbLen := 32#12
      dec := some ⟨32, [.body], { Rec.zero with count := byteAt bs 1 }⟩ }
  | p =>
    { s with
      fb := Memory.writeList s.fb (placeOffset p) bs
      fbLen := BitVec.ofNat 12 (placeOffset p + bs.length)
      dec := some ⟨placeOffset p, [p], Rec.zero⟩ }

/-- A word at a port, so that the next step runs the row it spells there: an edge that brings it, and the registers its row's
condition names. -/
def State.placeWord (port : Port) (bs : List Byte) (s : State) : State :=
  match port with
  | .token sync win rem =>
    { s with
      edges := { Edge.idle with token := some (BitVec.ofNat 10 (natOfBytes bs)) } :: s.edges
      phase := .sync
      cancelPending := false
      dec := none
      sync := sync
      win := win
      rem := rem }
  | .wire p => s.placeWire p bs
  | .sink =>
    { s with edges := { Edge.idle with sink := BitVec.ofNat 2 (natOfBytes bs) } :: s.edges, phase := .emit, dec := none }
  | .host =>
    { s with
      edges := { Edge.idle with host := some (BitVec.ofNat 41 (natOfBytes bs)), internal := false } :: s.edges, dec := none }
  | .cancel => { s with edges := Edge.idle :: s.edges, phase := .sync, cancelPending := true, dec := none }
  | .decode => { s with edges := Edge.idle :: s.edges, phase := .decode, dec := none }

end Sys2Proof.Machine
end

