-- ==== Sys2Proof/Machine/Step.lean ====
section
/-! DEFINITION. One step: one clock edge with all that happens at it, or, inside a decode step, one wire row. -/

namespace Sys2Proof.Machine

/-- The block's step at an edge. -/
def blockStep (e : Edge) (s : State) : Host.Outcome State Fault Refusal :=
  match blockInstr e s with
  | .error f => .fault f
  | .ok none => .next s
  | .ok (some i) => exec i s

/-- All that happens at an edge, on the state as it begins: `rst` alone (70_reset_and_hazards.md R141); else the host's read,
the block's step, the host's write, but for the two exceptions (44_host_interface.md R116; log entry 10). -/
def edgeStep (e : Edge) (s : State) : Host.Outcome State Fault Refusal :=
  if e.rst then .next s.softReset
  else
    match hostTurn e with
    | .idle => blockStep e s
    | .read i => andThen (exec i s) (blockStep e)
    | .write i => andThen (blockStep e s) fun t => andThen (exec i t) fun u => .next u.keepRaised
    | .srst i => exec i s

/-- One step of the machine. `dec` is `none` in every state a run reaches, and a step is then one clock edge. Inside a decode
step (log entry 2) a step is the wire row at the cursor, and the record's commit after the last one. -/
def step (s : State) : Host.Outcome State Fault Refusal :=
  match s.dec with
  | none => edgeStep s.nextEdge s.atEdge
  | some d =>
    match d.todo with
    | [] => .next (s.commit d.record)
    | p :: rest => exec (s.wireInstr d p) { s with dec := some { d with todo := rest } }

/-- `s` with a bare word of opcode_table.json where the next step takes its instruction from (log entry 8). -/
def State.withFetchWord (s : State) (nbits w : Nat) : State :=
  match Sys2Proof.tablePort nbits w with
  | none => s
  | some port =>
    s.placeWord port (Sys2Proof.wordBytes ((nbits + 7) / 8) w ++ (if nbits = 8 ∧ port = .wire (.text .obisVersion) then [0#8] else []))

end Sys2Proof.Machine
end

