-- ==== Sys2Proof/Safety.lean ====
section
/-! DEFINITION. What claims about HFSD are stated over: what a run shows (43_reader_loop.md R114), what a well-formed frame
is (30_encoding.md R50 to R62), and the properties every reachable state has. -/

namespace Sys2Proof.Machine

/-! ### What a run shows (43_reader_loop.md R114) -/

/-- A record handed over, with the sink's answer and the text bytes its offsets point at, read at the handshake (R114). -/
structure Handover where
  record : Rec
  failed : Bool
  obis : List Byte
  mid : List Byte
  mtype : List Byte
  deriving DecidableEq, Repr

/-- What one step shows: a record handed over, or a log pulse. -/
inductive Event where
  | handover (h : Handover)
  | log (r : ErrRec)
  deriving DecidableEq, Repr

/-- A reset happens at an edge: `rst`, or a write of CTRL.SRST (70_reset_and_hazards.md R141). -/
def Edge.resets (e : Edge) : Bool :=
  e.rst ||
    match hostTurn e with
    | .srst _ => true
    | .idle | .read _ | .write _ => false

/-- The record handed over at an edge: a handshake that no reset overrides (10_state.md R15; 70_reset_and_hazards.md R141). -/
def State.handover (e : Edge) (s : State) : List Event :=
  let h (failed : Bool) : List Event :=
    [.handover ⟨s.record, failed, s.textBytes .obisVersion, s.textBytes .meterId, s.textBytes .meterType⟩]
  if e.resets then []
  else
    match blockInstr e s with
    | .ok (some .sinkAck) => h false
    | .ok (some .sinkFail) => h true
    | _ => []

/-- What `k` steps show, in order, and the state they leave. -/
def observe : Nat → State → List Event × State
  | 0, s => ([], s)
  | k + 1, s =>
    match step s with
    | .next t =>
      let rest := observe k t
      (s.handover s.nextEdge ++ (t.out.log.toList.map .log) ++ rest.1, rest.2)
    | .fault _ | .refused _ => ([], s)

/-- A step that goes on. -/
def Result.goesOn (r : Result) : Prop := ∃ t, r = .next t

/-! ### Well-formed frames (30_encoding.md R50, R60, R62; 41_decoder_frame.md R94) -/

/-- The tag an item's place expects (30_encoding.md R55). -/
def itemTag : Place → Byte
  | .text _ | .eTs | .msgTs => Config.tagOctets
  | .u32 _ | .s32 _ => Config.tagInt
  | .count | .body => Config.tagCount
  | .startTag | .footer | .frameInfo | .destAddr | .srcAddr | .control | .hcs | .metaBlock => Config.startTag

/-- The size of a body item standing at an index (30_encoding.md R67). -/
def State.itemSize (s : State) (p : Place) (cur : Nat) : Nat :=
  match p with
  | .text _ => 2 + (s.frameByte (cur + 1)).toNat
  | .eTs | .msgTs => 13
  | .u32 _ | .s32 _ => 5
  | .count | .body | .frameInfo | .srcAddr | .hcs => 2
  | .startTag | .destAddr | .control => 1
  | .metaBlock => 8
  | .footer => 3

/-- Where a sequence of body items that starts at an index ends, if each has its tag and lies inside the frame. -/
def State.itemsEnd (s : State) (places : List Place) (cur : Nat) : Option Nat :=
  match places with
  | [] => some cur
  | p :: rest =>
    if s.frameByte cur = itemTag p ∧ cur + s.itemSize p cur ≤ s.fbLen.toNat then
      State.itemsEnd s rest (cur + s.itemSize p cur)
    else none

/-- `FB[a] ++ FB[a+1]` of the captured frame (30_encoding.md R64). -/
def State.u16At (s : State) (a : Nat) : BitVec 16 := s.frameByte a ++ s.frameByte (a + 1)

/-- `FB[a] ++ FB[a+1] ++ FB[a+2] ++ FB[a+3]` of the captured frame (30_encoding.md R64). -/
def State.u32At (s : State) (a : Nat) : BitVec 32 := s.u16At a ++ s.u16At (a + 2)

/-- The timestamp whose length byte stands at an index (30_encoding.md R59). -/
def State.tsAt (s : State) (a : Nat) : Timestamp :=
  ⟨s.frameByte a, s.u16At (a + 1), s.frameByte (a + 3), s.frameByte (a + 4), s.frameByte (a + 5), s.frameByte (a + 6),
    s.frameByte (a + 7), s.u32At (a + 8)⟩

/-- A record with the item that stands at an index read into it (42_decoder_body.md R96 to R99). -/
def State.itemRecord (s : State) (p : Place) (cur : Nat) (r : Rec) : Rec :=
  match p with
  | .text f => (r.setText f ⟨BitVec.ofNat 12 (cur + 2), s.frameByte (cur + 1)⟩).mark (textField f)
  | .u32 f => (r.setU32 f (s.u32At (cur + 1))).mark (u32Field f)
  | .s32 f => (r.setS32 f (s.u32At (cur + 1))).mark (s32Field f)
  | .eTs => Rec.mark .eTs { r with ets := s.tsAt (cur + 1) }
  | .startTag | .frameInfo | .destAddr | .srcAddr | .control | .hcs | .metaBlock | .msgTs | .count | .body | .footer => r

/-- A record with a sequence of items read into it, one after another from an index on. -/
def State.itemsRecord (s : State) (places : List Place) (cur : Nat) (r : Rec) : Rec :=
  match places with
  | [] => r
  | p :: rest => State.itemsRecord s rest (cur + s.itemSize p cur) (s.itemRecord p cur r)

/-- The variant an item count selects: its code, its items, and the mask of a frame that decodes (30_encoding.md R60;
42_decoder_body.md R95, R100 to R104). -/
def variantShape (n : Byte) : Option (BitVec 3 × List Place × BitVec 32) :=
  if n = 1#8 then some (0#3, items1, 0x300023FE#32)
  else if n = 9#8 then some (1#3, items9, 0x3013FFFE#32)
  else if n = 13#8 then some (2#3, items13, 0x307FFFFE#32)
  else if n = 14#8 then some (3#3, items14, 0x3F93FFFE#32)
  else if n = 18#8 then some (4#3, items18, 0x3FFFFFFE#32)
  else none

/-- The captured bytes are a frame all of whose checks pass: the two tag bytes, the item tags, a supported count, every field
inside the frame, the declared length, and the frame's end right after the end tag (41_decoder_frame.md R94). -/
def State.WellFormedFrame (s : State) : Prop :=
  s.frameByte 0 = Config.startTag ∧
  s.fbLen.toNat = (frameLength (s.frameByte 1) (s.frameByte 2)).toNat + 2 ∧
  s.frameByte 17 = Config.tagOctets ∧
  s.frameByte 30 = Config.tagCount ∧
  32 ≤ s.fbLen.toNat ∧
  ∃ code items mask last, variantShape (s.frameByte 31) = some (code, items, mask) ∧
    s.itemsEnd items 32 = some last ∧
    last + 3 = s.fbLen.toNat ∧
    s.frameByte (last + 2) = Config.endTag

/-- The record of a well-formed frame, each field from its offset (30_encoding.md R50 to R61; 41_decoder_frame.md R84 to R93). -/
def State.frameRecord (s : State) : Rec :=
  match variantShape (s.frameByte 31) with
  | none => Rec.zero
  | some (code, items, mask) =>
    { s.itemsRecord items 32 Rec.zero with
      count := s.frameByte 31
      variant := code
      mask := mask
      hdr := ⟨(s.frameByte 1).extractLsb' 4 4, (s.frameByte 1).extractLsb' 3 1, frameLength (s.frameByte 1) (s.frameByte 2),
        s.frameByte 3, s.u16At 4, s.frameByte 6, s.u16At 7⟩
      link := ⟨s.frameByte 9, s.frameByte 10, s.frameByte 11, s.frameByte 12 ++ s.u32At 13⟩
      ts := s.tsAt 18
      fcs := s.u16At (s.fbLen.toNat - 3) }

/-- The field whose id an item's errors carry (30_encoding.md R63). -/
def itemField : Place → Field
  | .text f => textField f
  | .u32 f => u32Field f
  | .s32 f => s32Field f
  | .eTs => .eTs
  | .startTag => .startTag
  | .frameInfo => .frameInfo
  | .destAddr => .destAddr
  | .srcAddr => .srcAddr
  | .control => .control
  | .hcs => .hcs
  | .metaBlock => .metaBlock
  | .msgTs => .msgTs
  | .count | .body => .count
  | .footer => .fcs

/-- An OVERRUN (60_exceptions.md R130). -/
def overrunAt (f : Field) (i : Nat) : Err := .format .overrun f i 0x00#8

/-- A TAG_MISMATCH at a byte of the captured frame (60_exceptions.md R130). -/
def State.mismatchAt (s : State) (f : Field) (i : Nat) : Err := .format .tagMismatch f i (s.frameByte i)

/-- The error of a body item standing at an index, if it has one: the tag past the frame, then a wrong tag, then the rest past
the frame (60_exceptions.md R133 item 2; 42_decoder_body.md R96 to R99). -/
def State.itemError (s : State) (p : Place) (cur : Nat) : Option Err :=
  if s.fbLen.toNat < cur + 1 then some (overrunAt (itemField p) cur)
  else if s.frameByte cur ≠ itemTag p then some (s.mismatchAt (itemField p) cur)
  else
    match p with
    | .text _ =>
      if s.fbLen.toNat < cur + 2 then some (overrunAt (itemField p) (cur + 1))
      else if s.fbLen.toNat < cur + s.itemSize p cur then some (overrunAt (itemField p) (cur + 2))
      else none
    | _ => if s.fbLen.toNat < cur + s.itemSize p cur then some (overrunAt (itemField p) (cur + 1)) else none

/-- The first error of a sequence of body items that starts at an index. -/
def State.itemsError (s : State) (places : List Place) (cur : Nat) : Option Err :=
  match places with
  | [] => none
  | p :: rest =>
    match s.itemError p cur with
    | some e => some e
    | none => State.itemsError s rest (cur + s.itemSize p cur)

/-- The first check of a captured frame that fails, in the order of the parse (41_decoder_frame.md R84 to R93; 60_exceptions.md
R133 items 1 to 3). -/
def State.firstError (s : State) : Option Err :=
  let n := s.fbLen.toNat
  if n < 1 then some (overrunAt .startTag 0)
  else if s.frameByte 0 ≠ Config.startTag then some (s.mismatchAt .startTag 0)
  else if n < 3 then some (overrunAt .frameInfo 1)
  else if n ≠ (frameLength (s.frameByte 1) (s.frameByte 2)).toNat + 2 then
    some (.format .lengthMismatch .frameInfo 1 (s.frameByte 1))
  else if n < 4 then some (overrunAt .destAddr 3)
  else if n < 6 then some (overrunAt .srcAddr 4)
  else if n < 7 then some (overrunAt .control 6)
  else if n < 9 then some (overrunAt .hcs 7)
  else if n < 17 then some (overrunAt .metaBlock 9)
  else if n < 18 then some (overrunAt .msgTs 17)
  else if s.frameByte 17 ≠ Config.tagOctets then some (s.mismatchAt .msgTs 17)
  else if n < 30 then some (overrunAt .msgTs 18)
  else if n < 31 then some (overrunAt .count 30)
  else if s.frameByte 30 ≠ Config.tagCount then some (s.mismatchAt .count 30)
  else if n < 32 then some (overrunAt .count 31)
  else
    match variantShape (s.frameByte 31) with
    | none => some (.unsupportedVariant (s.frameByte 31))
    | some (_, items, _) =>
      match s.itemsEnd items 32 with
      | none => s.itemsError items 32
      | some last =>
        if n < last + 2 then some (overrunAt .fcs last)
        else if n < last + 3 then some (overrunAt .endTag (last + 2))
        else if s.frameByte (last + 2) ≠ Config.endTag then some (s.mismatchAt .endTag (last + 2))
        else if n ≠ last + 3 then some (.format .trailing .frameEnd (last + 3) (s.frameByte (last + 3)))
        else none

/-- The number of body fields a record's mask names, bits 10 to 27 (42_decoder_body.md R106). -/
def Rec.bodyFields (r : Rec) : Nat := ((List.range 18).filter fun j => r.mask.getLsbD (10 + j)).length

/-! ### Memory and streams -/

/-- The second memory reads as the first but for one index, which reads as a given byte. -/
def changedOnlyAt (m m' : Memory) (i : Nat) (v : Byte) : Prop :=
  fbRead m' i = v ∧ ∀ a, a ≠ i → fbRead m' a = fbRead m a

/-- The input token of a byte (30_encoding.md R49). -/
def byteToken (b : Byte) : Token := 0b00#2 ++ b

/-- An edge that offers one byte, and at which nothing else happens. -/
def byteEdge (b : Byte) : Edge := { Edge.idle with token := some (byteToken b) }

/-- `k` steps one after another. -/
def runSteps : Nat → State → Result
  | 0, s => .next s
  | k + 1, s => andThen (step s) (runSteps k)

/-- Bytes that hold no start candidate, after a byte `w` (40_synchronizer.md R79 item 3). -/
def noCandidate (w : Byte) : List Byte → Bool
  | [] => true
  | b :: rest => !startCandidate w b && noCandidate b rest

/-- How many bytes of the frame buffer the block will still read: those of the capture in progress, or of the captured frame
(70_reset_and_hazards.md R142). -/
def State.live (s : State) : Nat :=
  match s.phase with
  | .sync =>
    match s.sync with
    | .seek => 0
    | .len => 2
    | .body => s.wp.toNat
  | .decode | .emit => s.fbLen.toNat
  | .halted => 0

/-- Two states that differ at most in bytes of the buffer the block will not read, and in what the two FB read ports show. -/
def SameButStale (s s' : State) : Prop :=
  s' = { s with fb := s'.fb, out := s'.out } ∧ s'.out.log = s.out.log ∧
  ∀ a, a < s.live → fbRead s'.fb a = fbRead s.fb a

/-! ### Properties of reachable states -/

/-- A buffer begins as every capture does: the start tag, then a byte with format nibble 0xA (40_synchronizer.md R79 item 1). -/
def startsFrame (m : Memory) : Prop :=
  fbRead m 0 = Config.startTag ∧ (fbRead m 1).extractLsb' 4 4 = Config.formatNibble

/-- Every index below `n` has been written. -/
def writtenBelow (m : Memory) (n : Nat) : Prop := ∀ a, a < n → (Memory.read m a).isSome = true

/-- The length a captured frame declares (30_encoding.md R51). -/
def declaredLength (m : Memory) : BitVec 11 := frameLength (fbRead m 1) (fbRead m 2)

/-- The capture registers and the buffer agree: what a capture in progress has written and what is still due; what a captured
frame is (40_synchronizer.md R71 to R75, R79 item 1; 20_memory.md R38, R40); no decode step is in progress
(41_decoder_frame.md R80). -/
def State.CaptureOk (s : State) : Prop :=
  s.dec = none ∧
  Memory.wf s.fb = true ∧
  (s.sync ≠ .seek → s.phase = .sync ∨ s.phase = .halted) ∧
  (s.sync = .len → s.wp = 2#12 ∧ startsFrame s.fb ∧ writtenBelow s.fb 2) ∧
  (s.sync = .body → 3 ≤ s.wp.toNat ∧ 1 ≤ s.rem.toNat ∧ s.flen = declaredLength s.fb ∧
    s.wp.toNat + s.rem.toNat = s.flen.toNat + 2 ∧ startsFrame s.fb ∧ writtenBelow s.fb s.wp.toNat) ∧
  (s.phase = .decode ∨ s.phase = .emit → s.sync = .seek ∧ s.win = 0x00#8 ∧ startsFrame s.fb ∧
    s.fbLen.toNat = captureSize (declaredLength s.fb) ∧ writtenBelow s.fb s.fbLen.toNat)

/-- The law of the counters (43_reader_loop.md R113), between decode steps. -/
def State.CountersAgree (s : State) : Prop :=
  s.dec = none ∧ s.cntCap = s.cntOk + s.cntFmt + s.cntVar + (if s.phase = .decode then 1#32 else 0#32)

/-- `serr_code` is 0 exactly while no stream error has ended the run, and the last error of an ended run is that stream error
(10_state.md R28, R29; 43_reader_loop.md R112). -/
def State.HaltedAgrees (s : State) : Prop :=
  s.dec = none ∧ (s.phase = .halted ↔ s.serrCode ≠ 0#2) ∧
  (s.phase = .halted → s.err.kind = 3#3 ∧ s.err.reason = s.serrCode.setWidth 3)

/-- A bit of a record's mask. -/
def Rec.has (r : Rec) (f : Field) : Bool := r.mask.getLsbD (fieldId f).toNat

/-- Every body field whose mask bit is 0 holds 0 (10_state.md R32). -/
def Rec.AbsentZero (r : Rec) : Prop :=
  (∀ f, r.has (textField f) = false → r.text f = ⟨0#12, 0#8⟩) ∧
  (∀ f, r.has (u32Field f) = false → r.u32 f = 0#32) ∧
  (∀ f, r.has (s32Field f) = false → r.s32 f = 0#32) ∧
  (r.has .eTs = false → r.ets = zeroTimestamp)

/-- `REC` holds nothing yet, or a record of one of the five variants, with that variant's mask and 0 in every body field the
variant does not have (10_state.md R32; 90_conflicts.md C8). -/
def Rec.Shaped (r : Rec) : Prop :=
  r = Rec.zero ∨ ((∃ items, variantShape r.count = some (r.variant, items, r.mask)) ∧ r.AbsentZero)

/-- The record register set has the shape of a record, between decode steps. -/
def State.RecordShaped (s : State) : Prop := s.dec = none ∧ s.record.Shaped

/-- Rows of a decode step run one after another, until no decode step is in progress or `k` steps are done. -/
def runRows : Nat → State → Result
  | 0, s => .next s
  | k + 1, s =>
    match s.dec with
    | none => .next s
    | some _ => andThen (step s) (runRows k)

end Sys2Proof.Machine
end

