-- ==== Sys2Proof/Certificates/Slice0/Obligations.lean ====
section
/-! DEFINITION. The statements about HFSD that the provers settle. Each docstring names the rule of spec/ it formalises; one
that says "derived" also rests on the model's own fields, which the named log entry explains. -/

section

open Sys2Proof Sys2Proof.Machine

/-! ### Reset -/

/-- 10_state.md R36: what every register holds after reset, at power-up or later, and the four outputs. The FB bytes are any. -/
def Obligations.ResetLeavesEveryRegisterAtItsValue : Prop :=
  ∀ t : State, (t = State.reset ∨ ∃ s : State, t = s.softReset) →
    t.phase = .sync ∧ t.sync = .seek ∧ t.win = 0x00#8 ∧ t.flen = 0#11 ∧ t.rem = 0#12 ∧ t.wp = 0#12 ∧ t.fbLen = 0#12 ∧
    t.cancelPending = false ∧ t.serrCode = 0#2 ∧ t.err = ⟨0#3, 0#3, 0#5, 0#12, 0#8⟩ ∧
    t.fmtSeen = false ∧ t.varSeen = false ∧ t.sinkSeen = false ∧
    t.cntSeek = 0#32 ∧ t.cntCap = 0#32 ∧ t.cntOk = 0#32 ∧ t.cntFmt = 0#32 ∧ t.cntVar = 0#32 ∧ t.cntSinkFail = 0#32 ∧
    t.record = ⟨0#8, 0#3, 0#32, ⟨0#4, 0#1, 0#11, 0#8, 0#16, 0#8, 0#16⟩, ⟨0#8, 0#8, 0#8, 0#40⟩,
      ⟨0#8, 0#16, 0#8, 0#8, 0#8, 0#8, 0#8, 0#32⟩, ⟨0#12, 0#8⟩, ⟨0#12, 0#8⟩, ⟨0#12, 0#8⟩, 0#32, 0#32, 0#32, 0#32,
      0#32, 0#32, 0#32, 0#32, 0#32, 0#32, ⟨0#8, 0#16, 0#8, 0#8, 0#8, 0#8, 0#8, 0#32⟩, 0#32, 0#32, 0#32, 0#32, 0#16⟩ ∧
    t.fbAddr = 0#12 ∧
    t.inReady = true ∧ t.outValid = false ∧ t.out.log = none ∧ t.halted = false

/-- 70_reset_and_hazards.md R141 (derived): which edges reset; such an edge leaves the reset state with FB as it was, whatever else
its pins carry; and nothing but such an edge leaves HALTED. What `host_rdata` and `sb_data` show at such an edge is the model's
choice and inference (log entries 5 and 10). -/
def Obligations.ResetEdgeResetsAndDiscardsEveryStep : Prop :=
  (∀ e : Edge, e.resets = true ↔ e.rst = true ∨ ∃ w, e.host = some w ∧ w.getLsbD 40 = true ∧
    w.extractLsb' 34 6 = 0#6 ∧ w.getLsbD 0 = true) ∧
  (∀ s : State, s.dec = none → s.nextEdge.resets = true →
    step s = .next { State.reset with
      fb := s.fb, edges := s.edges.tail, out := ⟨none, none, s.nextEdge.sbAddr.map s.sbData⟩ }) ∧
  (∀ s t : State, s.dec = none → s.phase = .halted → step s = .next t → t.phase ≠ .halted → s.nextEdge.resets = true)

/-- Derived: the machine right after reset has every property that the invariant statements keep. That no decode step is in
progress and that FB lists nothing are the model's choices (log entries 2, 3 and 14). -/
def Obligations.ResetMeetsEveryInvariant : Prop :=
  State.reset.CaptureOk ∧ State.reset.CountersAgree ∧ State.reset.HaltedAgrees ∧ State.reset.RecordShaped ∧
  Memory.wf State.reset.fb = true

/-! ### The synchronizer -/

/-- 40_synchronizer.md R70. -/
def Obligations.SeekByteCountsAndMovesTheWindow : Prop :=
  ∀ (s : State) (b : Byte), s.phase = .sync → s.cancelPending = false → s.sync = .seek →
    ¬(s.win = 0x7E#8 ∧ b.extractLsb' 4 4 = 0xA#4) →
    decode s.tokenPort (bytesToken (byteToken b)) = .ok (.seekByte b) ∧
    exec (.seekByte b) s = .next { s with cntSeek := s.cntSeek + 1#32, win := b }

/-- 40_synchronizer.md R71. -/
def Obligations.SeekStartOpensACapture : Prop :=
  ∀ (s : State) (b : Byte), s.phase = .sync → s.cancelPending = false → s.sync = .seek →
    s.win = 0x7E#8 → b.extractLsb' 4 4 = 0xA#4 →
    decode s.tokenPort (bytesToken (byteToken b)) = .ok (.seekStart b) ∧
    ∃ t : State, exec (.seekStart b) s = .next t ∧
      t = { s with cntSeek := s.cntSeek + 1#32, win := b, fb := t.fb, wp := 2#12, sync := .len } ∧
      fbRead t.fb 0 = 0x7E#8 ∧ fbRead t.fb 1 = b ∧ ∀ a, 2 ≤ a → fbRead t.fb a = fbRead s.fb a

/-- 40_synchronizer.md R72, with the capture completion of R75 for a length below 2. -/
def Obligations.LenByteSizesTheCapture : Prop :=
  ∀ (s : State) (b : Byte), s.phase = .sync → s.cancelPending = false → s.sync = .len →
    decode s.tokenPort (bytesToken (byteToken b)) = .ok (.lenByte b) ∧
    ∃ t : State, exec (.lenByte b) s = .next t ∧ changedOnlyAt s.fb t.fb 2 b ∧
      let len : BitVec 11 := (fbRead s.fb 1).extractLsb' 0 3 ++ b
      (2 ≤ len.toNat → t = { s with
        fb := t.fb, flen := len, wp := 3#12, rem := BitVec.ofNat 12 (len.toNat - 1), sync := .body }) ∧
      (len.toNat < 2 → t = { s with
        fb := t.fb, flen := len, wp := 3#12
        fbLen := 3#12, cntCap := s.cntCap + 1#32, sync := .seek, win := 0x00#8, phase := .decode })

/-- 40_synchronizer.md R73, and R74 with the capture completion of R75. The premise on `wp` is what 20_memory.md R38 says of it;
`StepKeepsTheCaptureInOrder` states it. -/
def Obligations.BodyBytesAreStoredUntilTheLast : Prop :=
  ∀ (s : State) (b : Byte), s.phase = .sync → s.cancelPending = false → s.sync = .body → s.wp.toNat ≤ 2048 →
    (1 < s.rem.toNat → decode s.tokenPort (bytesToken (byteToken b)) = .ok (.bodyByte b) ∧
      ∃ t : State, exec (.bodyByte b) s = .next t ∧ changedOnlyAt s.fb t.fb s.wp.toNat b ∧
        t = { s with fb := t.fb, wp := s.wp + 1#12, rem := s.rem - 1#12 }) ∧
    (s.rem = 1#12 → decode s.tokenPort (bytesToken (byteToken b)) = .ok (.bodyLast b) ∧
      ∃ t : State, exec (.bodyLast b) s = .next t ∧ changedOnlyAt s.fb t.fb s.wp.toNat b ∧
        t = { s with
          fb := t.fb, rem := 0#12, fbLen := s.wp + 1#12, cntCap := s.cntCap + 1#32, sync := .seek, win := 0x00#8
          phase := .decode })

/-- 40_synchronizer.md R76, R77, R78. -/
def Obligations.StreamErrorsEndTheRun : Prop :=
  ∀ s : State, s.phase = .sync →
    let r (reason : BitVec 3) : ErrRec :=
      ⟨3#3, reason, match s.sync with | .seek => 0#5 | .len => 1#5 | .body => 2#5,
        if s.sync = .seek then 0#12 else s.wp, 0x00#8⟩
    let ended (code : BitVec 2) (reason : BitVec 3) : State :=
      { s with err := r reason, out := { s.out with log := some (r reason) }, serrCode := code, phase := .halted }
    (s.cancelPending = false → ∀ x, decode s.tokenPort (bytesToken (0b01#2 ++ x)) = .ok (.streamEos x) ∧
      exec (.streamEos x) s = .next (ended 1#2 1#3)) ∧
    (s.cancelPending = false → ∀ x, decode s.tokenPort (bytesToken (0b1#1 ++ x)) = .ok (.streamIoerr x) ∧
      exec (.streamIoerr x) s = .next (ended 2#2 2#3)) ∧
    (s.cancelPending = true → exec .cancelTake s = .next (ended 3#2 3#3))

/-- 40_synchronizer.md R69 with the token words of 30_encoding.md R49: every token selects exactly one row, but for a byte in BODY
with no byte due, which no row names (derived; log entry 7). -/
def Obligations.TokenAndStateSelectTheRow : Prop :=
  ∀ (sync : SyncState) (win : Byte) (rem : FbIndex) (b : Byte) (x : BitVec 9),
    decodeToken sync win rem (0b1#1 ++ x) = .ok (.streamIoerr x) ∧
    decodeToken sync win rem (0b01#2 ++ b) = .ok (.streamEos b) ∧
    decodeToken sync win rem (0b00#2 ++ b) =
      match sync with
      | .seek => if win = 0x7E#8 ∧ b.extractLsb' 4 4 = 0xA#4 then .ok (.seekStart b) else .ok (.seekByte b)
      | .len => .ok (.lenByte b)
      | .body =>
        if rem = 0#12 then .error .bodyNothingDue
        else if rem = 1#12 then .ok (.bodyLast b) else .ok (.bodyByte b)

/-- 10_state.md R14, R13: when the block takes a token; a token offered at any other time changes nothing. -/
def Obligations.TokenIsTakenOnlyWhenReady : Prop :=
  (∀ s : State, s.inReady = true ↔ s.phase = .sync ∧ s.cancelPending = false) ∧
  (∀ (s : State) (e : Edge) (es : List Edge) (k : Token), s.dec = none → s.inReady = false →
    step { s with edges := { e with token := some k } :: es } = step { s with edges := { e with token := none } :: es })

/-- Derived (the model's choice, log entry 7): the only two stops, both outside the states that runs reach. -/
def Obligations.StopsAreTheTwoNamedFaults : Prop :=
  (∀ s : State, s.phase = .sync → s.cancelPending = false → s.sync = .body → 2048 < s.wp.toNat → ∀ b,
    (1 < s.rem.toNat → exec (.bodyByte b) s = .fault (.fbOutOfRange s.wp)) ∧
    (s.rem = 1#12 → exec (.bodyLast b) s = .fault (.fbOutOfRange s.wp))) ∧
  (∀ (s : State) (b : Byte), s.dec = none → s.inReady = true → s.sync = .body → s.rem = 0#12 →
    s.nextEdge.rst = false → s.nextEdge.host = none → s.nextEdge.token = some (byteToken b) →
    step s = .fault .bodyNothingDue) ∧
  (∀ (i : Instr) (s : State), (∃ t, exec i s = .next t) ∨
    (exec i s = .fault (.fbOutOfRange s.wp) ∧ s.inReady = true ∧ s.sync = .body ∧ 2048 < s.wp.toNat ∧
      ∃ b, (i = .bodyByte b ∧ 1 < s.rem.toNat) ∨ (i = .bodyLast b ∧ s.rem = 1#12)))

/-! ### The wire rows -/

/-- 41_decoder_frame.md R85. -/
def Obligations.StartTagIsExpected : Prop :=
  ∀ (s : State) (d : Dec) (tag : Byte), s.dec = some d →
    s.wireInstr d .startTag = .startTag (s.frameByte d.cur) ∧
    (s.fbLen.toNat < d.cur + 1 → exec (.startTag tag) s = .next (s.frameError (.format .overrun .startTag d.cur 0x00#8))) ∧
    (d.cur + 1 ≤ s.fbLen.toNat → tag ≠ 0x7E#8 →
      exec (.startTag tag) s = .next (s.frameError (.format .tagMismatch .startTag d.cur tag))) ∧
    (d.cur + 1 ≤ s.fbLen.toNat → tag = 0x7E#8 →
      exec (.startTag tag) s = .next { s with dec := some { d with cur := d.cur + 1, record := d.record.mark .startTag } })

/-- 41_decoder_frame.md R86: every frame-info word is two bytes `b1`, `b2`. The row rebuilds the byte of a LENGTH_MISMATCH from its
own bits (log entry 17); here that byte is `b1`. -/
def Obligations.FrameInfoIsReadAndChecked : Prop :=
  ∀ (s : State) (d : Dec) (b1 b2 : Byte), s.dec = some d →
    let i : Instr := .frameInfo (b1.extractLsb' 4 4) (b1.extractLsb' 3 1) (b1.extractLsb' 0 3 ++ b2)
    (s.frameByte d.cur = b1 → s.frameByte (d.cur + 1) = b2 → s.wireInstr d .frameInfo = i) ∧
    (s.fbLen.toNat < d.cur + 2 → exec i s = .next (s.frameError (.format .overrun .frameInfo d.cur 0x00#8))) ∧
    (d.cur + 2 ≤ s.fbLen.toNat → s.fbLen.toNat ≠ (b1.extractLsb' 0 3 ++ b2).toNat + 2 →
      exec i s = .next (s.frameError (.format .lengthMismatch .frameInfo 1 b1))) ∧
    (d.cur + 2 ≤ s.fbLen.toNat → s.fbLen.toNat = (b1.extractLsb' 0 3 ++ b2).toNat + 2 →
      exec i s = .next { s with dec := some { d with
        cur := d.cur + 2
        record := Rec.mark .frameInfo { d.record with hdr := { d.record.hdr with
          format := b1.extractLsb' 4 4, sep := b1.extractLsb' 3 1, len := b1.extractLsb' 0 3 ++ b2 } } } })

/-- 41_decoder_frame.md R87, R88 and R89: the destination, source and control fields, the HCS and the Meta block are read raw. -/
def Obligations.RawFieldsAreReadAsTheyStand : Prop :=
  ∀ (s : State) (d : Dec) (v dst src llc : Byte) (w : BitVec 16) (rsv : BitVec 40), s.dec = some d →
    let reads (i : Instr) (f : Field) (k : Nat) (r : Rec) : Prop :=
      (s.fbLen.toNat < d.cur + k → exec i s = .next (s.frameError (.format .overrun f d.cur 0x00#8))) ∧
      (d.cur + k ≤ s.fbLen.toNat → exec i s = .next { s with dec := some { d with cur := d.cur + k, record := r.mark f } })
    s.wireInstr d .destAddr = .destAddr (s.frameByte d.cur) ∧
    s.wireInstr d .srcAddr = .srcAddr (s.frameByte d.cur ++ s.frameByte (d.cur + 1)) ∧
    s.wireInstr d .control = .control (s.frameByte d.cur) ∧
    s.wireInstr d .hcs = .hcs (s.frameByte d.cur ++ s.frameByte (d.cur + 1)) ∧
    s.wireInstr d .metaBlock = .metaBlock (s.frameByte d.cur) (s.frameByte (d.cur + 1)) (s.frameByte (d.cur + 2))
      (s.frameByte (d.cur + 3) ++ (s.frameByte (d.cur + 4) ++ s.frameByte (d.cur + 5) ++
        (s.frameByte (d.cur + 6) ++ s.frameByte (d.cur + 7)))) ∧
    reads (.destAddr v) .destAddr 1 { d.record with hdr := { d.record.hdr with dest := v } } ∧
    reads (.srcAddr w) .srcAddr 2 { d.record with hdr := { d.record.hdr with src := w } } ∧
    reads (.control v) .control 1 { d.record with hdr := { d.record.hdr with ctrl := v } } ∧
    reads (.hcs w) .hcs 2 { d.record with hdr := { d.record.hdr with hcs := w } } ∧
    reads (.metaBlock dst src llc rsv) .metaBlock 8 { d.record with link := ⟨dst, src, llc, rsv⟩ }

/-- 41_decoder_frame.md R90 and R91, and 42_decoder_body.md R99: the two timestamp items. -/
def Obligations.TimestampItemsAreRead : Prop :=
  ∀ (s : State) (d : Dec) (tag : Byte) (v : Timestamp), s.dec = some d →
    s.wireInstr d .msgTs = .msgTs (s.frameByte d.cur) (s.tsAt (d.cur + 1)) ∧
    s.wireInstr d .eTs = .itemETs (s.frameByte d.cur) (s.tsAt (d.cur + 1)) ∧
    (s.fbLen.toNat < d.cur + 1 →
      exec (.msgTs tag v) s = .next (s.frameError (.format .overrun .msgTs d.cur 0x00#8)) ∧
      exec (.itemETs tag v) s = .next (s.frameError (.format .overrun .eTs d.cur 0x00#8))) ∧
    (d.cur + 1 ≤ s.fbLen.toNat → tag ≠ 0x09#8 →
      exec (.msgTs tag v) s = .next (s.frameError (.format .tagMismatch .msgTs d.cur tag)) ∧
      exec (.itemETs tag v) s = .next (s.frameError (.format .tagMismatch .eTs d.cur tag))) ∧
    (d.cur + 1 ≤ s.fbLen.toNat → s.fbLen.toNat < d.cur + 13 → tag = 0x09#8 →
      exec (.msgTs tag v) s = .next (s.frameError (.format .overrun .msgTs (d.cur + 1) 0x00#8)) ∧
      exec (.itemETs tag v) s = .next (s.frameError (.format .overrun .eTs (d.cur + 1) 0x00#8))) ∧
    (d.cur + 13 ≤ s.fbLen.toNat → tag = 0x09#8 →
      exec (.msgTs tag v) s = .next { s with dec := some { d with
        cur := d.cur + 13, record := Rec.mark .msgTs { d.record with ts := v } } } ∧
      exec (.itemETs tag v) s = .next { s with dec := some { d with
        cur := d.cur + 13, record := Rec.mark .eTs { d.record with ets := v } } })

/-- 41_decoder_frame.md R92. -/
def Obligations.CountIsReadWhateverItsValue : Prop :=
  ∀ (s : State) (d : Dec) (tag v : Byte), s.dec = some d →
    s.wireInstr d .count = .count (s.frameByte d.cur) (s.frameByte (d.cur + 1)) ∧
    (s.fbLen.toNat < d.cur + 1 → exec (.count tag v) s = .next (s.frameError (.format .overrun .count d.cur 0x00#8))) ∧
    (d.cur + 1 ≤ s.fbLen.toNat → tag ≠ 0x02#8 →
      exec (.count tag v) s = .next (s.frameError (.format .tagMismatch .count d.cur tag))) ∧
    (s.fbLen.toNat = d.cur + 1 → tag = 0x02#8 →
      exec (.count tag v) s = .next (s.frameError (.format .overrun .count (d.cur + 1) 0x00#8))) ∧
    (d.cur + 2 ≤ s.fbLen.toNat → tag = 0x02#8 →
      exec (.count tag v) s = .next { s with dec := some { d with
        cur := d.cur + 2, record := Rec.mark .count { d.record with count := v } } })

/-- 41_decoder_frame.md R93. -/
def Obligations.FooterEndsTheFrame : Prop :=
  ∀ (s : State) (d : Dec) (fcs : BitVec 16) (tag : Byte), s.dec = some d →
    s.wireInstr d .footer =
      .fcsEndTag (s.frameByte d.cur ++ s.frameByte (d.cur + 1)) (s.frameByte (d.cur + 2)) ∧
    (s.fbLen.toNat < d.cur + 2 →
      exec (.fcsEndTag fcs tag) s = .next (s.frameError (.format .overrun .fcs d.cur 0x00#8))) ∧
    (s.fbLen.toNat = d.cur + 2 →
      exec (.fcsEndTag fcs tag) s = .next (s.frameError (.format .overrun .endTag (d.cur + 2) 0x00#8))) ∧
    (d.cur + 3 ≤ s.fbLen.toNat → tag ≠ 0x7E#8 →
      exec (.fcsEndTag fcs tag) s = .next (s.frameError (.format .tagMismatch .endTag (d.cur + 2) tag))) ∧
    (d.cur + 3 < s.fbLen.toNat → tag = 0x7E#8 →
      exec (.fcsEndTag fcs tag) s =
        .next (s.frameError (.format .trailing .frameEnd (d.cur + 3) (fbRead s.fb (d.cur + 3))))) ∧
    (d.cur + 3 = s.fbLen.toNat → tag = 0x7E#8 →
      exec (.fcsEndTag fcs tag) s = .next { s with dec := some { d with
        cur := d.cur + 3, record := Rec.mark .endTag (Rec.mark .fcs { d.record with fcs := fcs }) } })

/-- 42_decoder_body.md R96. -/
def Obligations.TextItemRecordsWhereItStands : Prop :=
  ∀ (s : State) (d : Dec) (f : TextField) (tag k : Byte) (content : List Byte), s.dec = some d →
    s.wireInstr d (.text f) = .itemText f (s.frameByte d.cur) (s.frameByte (d.cur + 1))
      ((List.range (s.frameByte (d.cur + 1)).toNat).map fun j => s.frameByte (d.cur + 2 + j)) ∧
    (s.fbLen.toNat < d.cur + 1 →
      exec (.itemText f tag k content) s = .next (s.frameError (.format .overrun (textField f) d.cur 0x00#8))) ∧
    (d.cur + 1 ≤ s.fbLen.toNat → tag ≠ 0x09#8 →
      exec (.itemText f tag k content) s = .next (s.frameError (.format .tagMismatch (textField f) d.cur tag))) ∧
    (s.fbLen.toNat = d.cur + 1 → tag = 0x09#8 →
      exec (.itemText f tag k content) s = .next (s.frameError (.format .overrun (textField f) (d.cur + 1) 0x00#8))) ∧
    (d.cur + 2 ≤ s.fbLen.toNat → s.fbLen.toNat < d.cur + 2 + k.toNat → tag = 0x09#8 →
      exec (.itemText f tag k content) s = .next (s.frameError (.format .overrun (textField f) (d.cur + 2) 0x00#8))) ∧
    (d.cur + 2 + k.toNat ≤ s.fbLen.toNat → tag = 0x09#8 →
      exec (.itemText f tag k content) s = .next { s with dec := some { d with
        cur := d.cur + 2 + k.toNat
        record := (d.record.setText f ⟨BitVec.ofNat 12 (d.cur + 2), k⟩).mark (textField f) } })

/-- 42_decoder_body.md R97, and R98: a signed item's 32 bits are kept as read, and read with the same tag and errors. What number
those bits are is `PhysicalValuesAreExactQuotients`'s to say. -/
def Obligations.IntegerItemsReadTheirField : Prop :=
  ∀ (s : State) (d : Dec) (f : U32Field) (g : S32Field) (tag : Byte) (v : Word32), s.dec = some d →
    let word : BitVec 32 :=
      s.frameByte (d.cur + 1) ++ s.frameByte (d.cur + 2) ++ (s.frameByte (d.cur + 3) ++ s.frameByte (d.cur + 4))
    s.wireInstr d (.u32 f) = .itemU32 f (s.frameByte d.cur) word ∧
    s.wireInstr d (.s32 g) = .itemS32 g (s.frameByte d.cur) word ∧
    (s.fbLen.toNat < d.cur + 1 →
      exec (.itemU32 f tag v) s = .next (s.frameError (.format .overrun (u32Field f) d.cur 0x00#8)) ∧
      exec (.itemS32 g tag v) s = .next (s.frameError (.format .overrun (s32Field g) d.cur 0x00#8))) ∧
    (d.cur + 1 ≤ s.fbLen.toNat → tag ≠ 0x06#8 →
      exec (.itemU32 f tag v) s = .next (s.frameError (.format .tagMismatch (u32Field f) d.cur tag)) ∧
      exec (.itemS32 g tag v) s = .next (s.frameError (.format .tagMismatch (s32Field g) d.cur tag))) ∧
    (d.cur + 1 ≤ s.fbLen.toNat → s.fbLen.toNat < d.cur + 5 → tag = 0x06#8 →
      exec (.itemU32 f tag v) s = .next (s.frameError (.format .overrun (u32Field f) (d.cur + 1) 0x00#8)) ∧
      exec (.itemS32 g tag v) s = .next (s.frameError (.format .overrun (s32Field g) (d.cur + 1) 0x00#8))) ∧
    (d.cur + 5 ≤ s.fbLen.toNat → tag = 0x06#8 →
      exec (.itemU32 f tag v) s = .next { s with dec := some { d with
        cur := d.cur + 5, record := (d.record.setU32 f v).mark (u32Field f) } } ∧
      exec (.itemS32 g tag v) s = .next { s with dec := some { d with
        cur := d.cur + 5, record := (d.record.setS32 g v).mark (s32Field g) } })

/-- 42_decoder_body.md R95 (derived): the item count alone selects the row, and an unsupported one is an error at once. Both stand
in the model's decode step (log entry 2). -/
def Obligations.CountSelectsTheVariant : Prop :=
  (∀ (s : State) (d : Dec), s.wireInstr d .body =
    if d.record.count = 1#8 then .variant1
    else if d.record.count = 9#8 then .variant9
    else if d.record.count = 13#8 then .variant13
    else if d.record.count = 14#8 then .variant14
    else if d.record.count = 18#8 then .variant18
    else .variantUnsupported d.record.count) ∧
  (∀ (s : State) (d : Dec) (v : Byte), s.dec = some d →
    exec (.variantUnsupported v) s = .next { s with
      err := ⟨2#3, 0#3, 9#5, 31#12, v⟩
      out := { s.out with log := some ⟨2#3, 0#3, 9#5, 31#12, v⟩ }
      cntVar := s.cntVar + 1#32
      varSeen := true
      phase := .sync
      dec := none })

/-- 42_decoder_body.md R100 to R104 with the sequences of 30_encoding.md R60: each variant row writes its code, reads its items in
order, ends where the last one ends with their mask bits set, or takes the first item's error. -/
def Obligations.VariantRowsReadTheirItemsInOrder : Prop :=
  ∀ x ∈ ([
    (.variant1, 0#3, 0x00002000#32, [.u32 .pImp]),
    (.variant9, 1#3, 0x0013FC00#32,
      [.text .obisVersion, .text .meterId, .text .meterType, .u32 .pImp, .u32 .pExp, .u32 .qImp, .u32 .qExp,
       .s32 .il1, .u32 .ul1]),
    (.variant13, 2#3, 0x007FFC00#32,
      [.text .obisVersion, .text .meterId, .text .meterType, .u32 .pImp, .u32 .pExp, .u32 .qImp, .u32 .qExp,
       .s32 .il1, .s32 .il2, .s32 .il3, .u32 .ul1, .u32 .ul2, .u32 .ul3]),
    (.variant14, 3#3, 0x0F93FC00#32,
      [.text .obisVersion, .text .meterId, .text .meterType, .u32 .pImp, .u32 .pExp, .u32 .qImp, .u32 .qExp,
       .s32 .il1, .u32 .ul1, .eTs, .u32 .eAImp, .u32 .eAExp, .u32 .eRImp, .u32 .eRExp]),
    (.variant18, 4#3, 0x0FFFFC00#32,
      [.text .obisVersion, .text .meterId, .text .meterType, .u32 .pImp, .u32 .pExp, .u32 .qImp, .u32 .qExp,
       .s32 .il1, .s32 .il2, .s32 .il3, .u32 .ul1, .u32 .ul2, .u32 .ul3, .eTs, .u32 .eAImp, .u32 .eAExp,
       .u32 .eRImp, .u32 .eRExp])] : List (Instr × BitVec 3 × BitVec 32 × List Place)),
  ∀ (s : State) (d : Dec), s.dec = some d →
    (∀ last, s.itemsEnd x.2.2.2 d.cur = some last →
      exec x.1 s = .next { s with dec := some { d with
        cur := last, record := s.itemsRecord x.2.2.2 d.cur { d.record with variant := x.2.1 } } } ∧
      (s.itemsRecord x.2.2.2 d.cur { d.record with variant := x.2.1 }).mask = d.record.mask ||| x.2.2.1) ∧
    (∀ e, s.itemsError x.2.2.2 d.cur = some e → exec x.1 s = .next (s.frameError e)) ∧
    (s.itemsEnd x.2.2.2 d.cur = none ↔ s.itemsError x.2.2.2 d.cur ≠ none)

/-- 30_encoding.md R63: the field ids, and the one mask bit that reading a field sets. -/
def Obligations.FieldIdsAndTheirMaskBits : Prop :=
  [Field.startTag, .frameInfo, .destAddr, .srcAddr, .control, .hcs, .metaBlock, .msgTs, .count, .obisVersion, .meterId,
    .meterType, .pImp, .pExp, .qImp, .qExp, .il1, .il2, .il3, .ul1, .ul2, .ul3, .eTs, .eAImp, .eAExp, .eRImp, .eRExp,
    .fcs, .endTag, .frameEnd].map (fun f => (fieldId f).toNat) = (List.range 30).map (· + 1) ∧
  ∀ (r : Rec) (f : Field) (j : Nat), j < 32 →
    (r.mark f).mask.getLsbD j = (r.mask.getLsbD j || j == (fieldId f).toNat)

/-! ### The decode step -/

/-- 43_reader_loop.md R107 and R108. -/
def Obligations.DecodeStepCommitsOrReports : Prop :=
  ∀ s : State, s.phase = .decode →
    (∀ r, s.decodeFrame = .ok r → exec .decodeStep s = .next { s with
      record := r, cntOk := s.cntOk + 1#32, phase := .emit, dec := none }) ∧
    (∀ e, s.decodeFrame = .error e → (e.isFormat || e.isVariant) = true ∧
      exec .decodeStep s = .next { s with
        err := e.record
        out := { s.out with log := some e.record }
        cntFmt := if e.isFormat then s.cntFmt + 1#32 else s.cntFmt
        fmtSeen := if e.isFormat then true else s.fmtSeen
        cntVar := if e.isVariant then s.cntVar + 1#32 else s.cntVar
        varSeen := if e.isVariant then true else s.varSeen
        phase := .sync
        dec := none })

/-- 60_exceptions.md R131 with the records of R130 and the codes of R128 and R129: what raising each kind of error does, and the
phase that follows. -/
def Obligations.ErrorEntryRecordsCountsAndFlags : Prop :=
  ∀ s : State,
    (∀ (k : FmtReason) (f : Field) (a : Nat) (b : Byte),
      let r : ErrRec := ⟨1#3, match k with | .tagMismatch => 1#3 | .overrun => 2#3 | .lengthMismatch => 3#3 | .trailing => 4#3,
        fieldId f, BitVec.ofNat 12 a, b⟩
      s.raise (.format k f a b) =
        { s with err := r, out := { s.out with log := some r }, cntFmt := s.cntFmt + 1#32, fmtSeen := true }) ∧
    (∀ c : Byte,
      let r : ErrRec := ⟨2#3, 0#3, 9#5, 31#12, c⟩
      s.raise (.unsupportedVariant c) =
        { s with err := r, out := { s.out with log := some r }, cntVar := s.cntVar + 1#32, varSeen := true }) ∧
    (∀ (k : StreamReason) (q : SyncState) (w : FbIndex),
      let r : ErrRec := ⟨3#3, match k with | .eos => 1#3 | .io => 2#3 | .cancelled => 3#3,
        match q with | .seek => 0#5 | .len => 1#5 | .body => 2#5, if q = .seek then 0#12 else w, 0x00#8⟩
      s.raise (.stream k q w) = { s with err := r, out := { s.out with log := some r } }) ∧
    (s.raise .sink = { s with
      err := ⟨4#3, 0#3, 0#5, 0#12, 0x00#8⟩
      out := { s.out with log := some ⟨4#3, 0#3, 0#5, 0#12, 0x00#8⟩ }
      sinkSeen := true }) ∧
    (∀ e, s.frameError e = { s.raise e with phase := .sync, dec := none }) ∧
    (∀ k, (s.streamError k).phase = .halted) ∧
    (∀ t, s.phase = .emit → exec .sinkFail s = .next t → t.phase = .sync)

/-- 41_decoder_frame.md R94 with the layouts of 30_encoding.md R50 and R60: a frame decodes exactly when the listed checks pass, and
then to the record whose every field stands at its offset. -/
def Obligations.DecodeAcceptsExactlyTheWellFormedFrames : Prop :=
  ∀ s : State,
    ((∃ r, s.decodeFrame = .ok r) ↔ s.WellFormedFrame) ∧
    (s.WellFormedFrame → s.decodeFrame = .ok s.frameRecord)

/-- 60_exceptions.md R133 items 1 to 3: a frame that does not decode reports the first check that fails in the order of the parse. -/
def Obligations.DecodeReportsTheFirstFailingCheck : Prop :=
  ∀ (s : State) (e : Err), s.decodeFrame = .error e ↔ s.firstError = some e

/-- 42_decoder_body.md R106 with the masks of R100 to R104 and the zeros of 10_state.md R32. -/
def Obligations.DecodedRecordHasItsVariantsFields : Prop :=
  ∀ (s : State) (r : Rec), s.decodeFrame = .ok r →
    (r.count, r.variant, r.mask) ∈ ([(1#8, 0#3, 0x300023FE#32), (9#8, 1#3, 0x3013FFFE#32), (13#8, 2#3, 0x307FFFFE#32),
      (14#8, 3#3, 0x3F93FFFE#32), (18#8, 4#3, 0x3FFFFFFE#32)] : List (BitVec 8 × BitVec 3 × BitVec 32)) ∧
    r.bodyFields = r.count.toNat ∧ r.AbsentZero

/-- 30_encoding.md R62. -/
def Obligations.WellFormedFrameSizes : Prop :=
  ∀ s : State, s.WellFormedFrame →
    let n := s.fbLen.toNat
    let r := s.frameRecord
    let texts := (2 + r.obis.len.toNat) + (2 + r.mid.len.toNat) + (2 + r.mtype.len.toNat)
    40 ≤ n ∧ n ≤ 889 ∧
    (r.count = 1#8 → n = 40) ∧ (r.count = 9#8 → n = texts + 65) ∧ (r.count = 13#8 → n = texts + 85) ∧
    (r.count = 14#8 → n = texts + 98) ∧ (r.count = 18#8 → n = texts + 118)

/-- 41_decoder_frame.md R84, last sentence: the decode depends on the length and the bytes below it, and on nothing else. -/
def Obligations.DecodeReadsOnlyTheCapturedBytes : Prop :=
  ∀ s t : State, s.fbLen = t.fbLen → (∀ a, a < s.fbLen.toNat → fbRead s.fb a = fbRead t.fb a) →
    s.decodeFrame = t.decodeFrame

/-- Derived (log entry 2): the decode step row by row, each row run by `step`, is the atomic DECODE_STEP of 43_reader_loop.md
R107. -/
def Obligations.DecodeRowByRowIsTheDecodeStep : Prop :=
  ∀ s : State, s.phase = .decode → runRows 12 s.beginDecode = exec .decodeStep s

/-- Derived: the exact physical value of each numeric field (42_decoder_body.md R105). That a current's 32 bits are two's
complement is presumed, by the spec itself and so by the model (93_implementation_defined.md G4; log entry 11). -/
def Obligations.PhysicalValuesAreExactQuotients : Prop :=
  ∀ r : Rec,
    (∀ f ∈ ([.pImp, .pExp, .qImp, .qExp] : List U32Field), r.physicalU32 f = ((r.u32 f).toNat : Rat)) ∧
    (∀ f ∈ ([.ul1, .ul2, .ul3] : List U32Field), r.physicalU32 f * 10 = ((r.u32 f).toNat : Rat)) ∧
    (∀ f ∈ ([.eAImp, .eAExp, .eRImp, .eRExp] : List U32Field), r.physicalU32 f * 1000 = ((r.u32 f).toNat : Rat)) ∧
    (∀ f : S32Field, r.physicalS32 f * 1000 = (((r.s32 f).toInt : Int) : Rat))

/-! ### The sink and the loop -/

/-- 43_reader_loop.md R109 and R110. -/
def Obligations.SinkAnswersEndTheHandOver : Prop :=
  ∀ s : State, s.phase = .emit →
    exec .sinkAck s = .next { s with phase := .sync } ∧
    exec .sinkFail s = .next { s with
      err := ⟨4#3, 0#3, 0#5, 0#12, 0x00#8⟩
      out := { s.out with log := some ⟨4#3, 0#3, 0#5, 0#12, 0x00#8⟩ }
      sinkSeen := true
      cntSinkFail := s.cntSinkFail + 1#32
      phase := .sync }

/-- 20_memory.md R40 (derived): while a frame is in the block, its bytes and its length hold. A reset changes FB_LEN, never FB. -/
def Obligations.CapturedFrameHoldsUntilTheHandOver : Prop :=
  ∀ s t : State, s.dec = none → (s.phase = .decode ∨ s.phase = .emit) → step s = .next t →
    (∀ a, fbRead t.fb a = fbRead s.fb a) ∧
    (s.nextEdge.resets = false → t.fbLen = s.fbLen)

/-- 43_reader_loop.md R112: in HALTED the block does nothing; host reads answer, and only the sticky flags, FB_ADDR and
the read ports can change. -/
def Obligations.HaltedBlockDoesNothing : Prop :=
  ∀ s : State, s.dec = none → s.phase = .halted →
    s.inReady = false ∧ s.outValid = false ∧ s.halted = true ∧
    (s.nextEdge.resets = false → ∃ t : State, step s = .next t ∧
      t = { s with
        fmtSeen := t.fmtSeen, varSeen := t.varSeen, sinkSeen := t.sinkSeen, fbAddr := t.fbAddr
        out := t.out, edges := s.edges.tail } ∧
      t.out.log = none ∧ ∀ i, hostTurn s.nextEdge = .read i → t.out.hostRdata ≠ none)

/-- 43_reader_loop.md R113 and R114 (derived): the handshakes are counted by `cnt_ok` less the record still held; each hands over
`REC`, which `RecordIsWrittenOnlyByADecode` says a decode wrote, with the sink's answer and the text bytes of FB that its offsets
point at; and there is no hand-over without a handshake. -/
def Obligations.HandOversFollowTheDecodes : Prop :=
  (∀ s t : State, s.dec = none → s.nextEdge.resets = false → step s = .next t →
    t.cntOk - (if t.phase = .emit then 1#32 else 0#32) =
      s.cntOk - (if s.phase = .emit then 1#32 else 0#32) + BitVec.ofNat 32 (s.handover s.nextEdge).length) ∧
  (∀ (s : State) (e : Edge),
    let text (x : TextRef) : List Byte := (List.range x.len.toNat).map fun j => fbRead s.fb (x.off.toNat + j)
    let handshake : Prop := e.resets = false ∧ s.phase = .emit ∧ e.sink.getLsbD 1 = true
    (handshake → s.handover e =
      [.handover ⟨s.record, e.sink.getLsbD 0, text s.record.obis, text s.record.mid, text s.record.mtype⟩]) ∧
    (¬handshake → s.handover e = []))

/-- 10_state.md R32: `REC` is written by a successful decode and by nothing else. -/
def Obligations.RecordIsWrittenOnlyByADecode : Prop :=
  ∀ s t : State, s.dec = none → s.nextEdge.resets = false → step s = .next t →
    (s.phase = .decode ∧ t.phase = .emit → s.decodeFrame = .ok t.record) ∧
    (¬(s.phase = .decode ∧ t.phase = .emit) → t.record = s.record)

/-- 10_state.md R31: each counter counts its event and nothing else, no host write touches one, and a reset clears them. -/
def Obligations.CountersCountTheirEvents : Prop :=
  ∀ s t : State, s.dec = none → step s = .next t →
    (s.nextEdge.resets = true → t.cntSeek = 0#32 ∧ t.cntCap = 0#32 ∧ t.cntOk = 0#32 ∧ t.cntFmt = 0#32 ∧ t.cntVar = 0#32 ∧
      t.cntSinkFail = 0#32) ∧
    (s.nextEdge.resets = false → t.cntSeek = s.cntSeek + tick (s.inReady && s.sync == .seek &&
      match s.nextEdge.token with
      | none => false
      | some k => k.extractLsb' 8 2 == 0b00#2) ∧
    t.cntCap = s.cntCap + tick (s.phase == .sync && t.phase == .decode) ∧
    t.cntOk = s.cntOk + tick (s.phase == .decode && t.phase == .emit) ∧
    t.cntFmt = s.cntFmt + tick (t.raisedNow 1#3) ∧
    t.cntVar = s.cntVar + tick (t.raisedNow 2#3) ∧
    t.cntSinkFail = s.cntSinkFail + tick (s.phase == .emit && s.nextEdge.sink == 0b11#2))

/-- 10_state.md R30 and 44_host_interface.md R116 exception 1: a sticky flag is set by its error, stays until the host writes 1 to
its STATUS bit or a reset clears it, and stays set where error and write happen at one edge. -/
def Obligations.StickyFlagsAreSetAndClearedAsStated : Prop :=
  ∀ s t : State, s.dec = none → step s = .next t →
    let clears (j : Nat) : Bool :=
      match hostTurn s.nextEdge with
      | .write (.hostW1cStatus _ w) => w.getLsbD j
      | _ => false
    (s.nextEdge.resets = true → t.fmtSeen = false ∧ t.varSeen = false ∧ t.sinkSeen = false) ∧
    (s.nextEdge.resets = false →
      t.fmtSeen = (t.raisedNow 1#3 || (s.fmtSeen && !clears 8)) ∧
      t.varSeen = (t.raisedNow 2#3 || (s.varSeen && !clears 9)) ∧
      t.sinkSeen = (t.raisedNow 4#3 || (s.sinkSeen && !clears 10)))

/-- 10_state.md R17 and R29, 60_exceptions.md R131 and R133 item 4: the log pulses exactly at the edge of a step that raises an
error, with the record the last-error registers then hold; each kind is raised in its own phase. -/
def Obligations.LogPulsesExactlyWithAnError : Prop :=
  ∀ s t : State, s.dec = none → step s = .next t →
    (s.nextEdge.resets = true → t.err = ⟨0#3, 0#3, 0#5, 0#12, 0#8⟩ ∧ t.out.log = none) ∧
    (s.nextEdge.resets = false → t.err = t.out.log.getD s.err) ∧
    (s.nextEdge.resets = false → (t.out.log ≠ none ↔ (s.phase = .sync ∧ t.phase = .halted) ∨ (s.phase = .decode ∧ t.phase = .sync) ∨
      (s.phase = .emit ∧ s.nextEdge.sink = 0b11#2))) ∧
    (∀ r, t.out.log = some r →
      (r.kind = 1#3 ∨ r.kind = 2#3 → s.phase = .decode) ∧ (r.kind = 3#3 → s.phase = .sync) ∧
      (r.kind = 4#3 → s.phase = .emit) ∧ (r.kind = 1#3 ∨ r.kind = 2#3 ∨ r.kind = 3#3 ∨ r.kind = 4#3))

/-- 10_state.md R27 and 44_host_interface.md R119: a pending cancel is set by CTRL.CANCEL outside HALTED, and stays until reset. -/
def Obligations.CancelStaysPendingUntilReset : Prop :=
  ∀ s t : State, s.dec = none → s.nextEdge.resets = false → step s = .next t →
    (t.cancelPending = true ↔ s.cancelPending = true ∨
      (t.phase ≠ .halted ∧ ∃ lo w, hostTurn s.nextEdge = .write (.hostCancel lo w)))

/-! ### The host -/

/-- 44_host_interface.md R118 and R119: the two commands, and the writes of CTRL that are them. -/
def Obligations.HostCommandsResetAndCancel : Prop :=
  ∀ (s : State) (lo : BitVec 2) (w : Word32),
    (w.getLsbD 0 = true → decode .host (bytesHost 1#1 (0#6 ++ lo) w) = .ok (.hostSrst lo w)) ∧
    (w.getLsbD 0 = false → w.getLsbD 1 = true → decode .host (bytesHost 1#1 (0#6 ++ lo) w) = .ok (.hostCancel lo w)) ∧
    exec (.hostSrst lo w) s = .next { State.reset with
      fb := s.fb, edges := s.edges, out := ⟨none, none, s.out.sbData⟩ } ∧
    (s.phase ≠ .halted → exec (.hostCancel lo w) s = .next { s with cancelPending := true }) ∧
    (s.phase = .halted → exec (.hostCancel lo w) s = .next s)

/-- 44_host_interface.md R121, R123 and R127: the writes of STATUS and FB_ADDR with the read of FB_ADDR, and the writes that
change nothing. -/
def Obligations.HostWritesToRegisters : Prop :=
  ∀ (s : State) (off : BitVec 6) (lo : BitVec 2) (addr : Byte) (w : Word32),
    decode .host (bytesHost 1#1 (1#6 ++ lo) w) = .ok (.hostW1cStatus lo w) ∧
    decode .host (bytesHost 1#1 (3#6 ++ lo) w) = .ok (.hostWriteFbAddr lo w) ∧
    decode .host (bytesHost 0#1 (3#6 ++ lo) w) = .ok (.hostReadFbAddr lo w) ∧
    (off ≠ 0#6 ∧ off ≠ 1#6 ∧ off ≠ 3#6 ∨ off = 0#6 ∧ w.getLsbD 0 = false ∧ w.getLsbD 1 = false →
      decode .host (bytesHost 1#1 (off ++ lo) w) = .ok (.hostWriteIgnored (off ++ lo) w)) ∧
    exec (.hostW1cStatus lo w) s = .next { s with
      fmtSeen := if w.getLsbD 8 then false else s.fmtSeen
      varSeen := if w.getLsbD 9 then false else s.varSeen
      sinkSeen := if w.getLsbD 10 then false else s.sinkSeen } ∧
    exec (.hostWriteFbAddr lo w) s = .next { s with fbAddr := w.extractLsb' 0 12 } ∧
    exec (.hostReadFbAddr lo w) s = .next { s with out := { s.out with hostRdata := some (s.fbAddr.setWidth 32) } } ∧
    exec (.hostWriteIgnored addr w) s = .next s

/-- 44_host_interface.md R120 and R125: the fields of STATUS and of ERR_INFO, and ERR_OFFSET, each at its offset. -/
def Obligations.StatusAndErrorReadsGiveTheirFields : Prop :=
  ∀ (s : State) (lo : BitVec 2) (w : Word32),
    decode .host (bytesHost 0#1 (1#6 ++ lo) w) = .ok (.hostReadStatus lo w) ∧
    decode .host (bytesHost 0#1 (5#6 ++ lo) w) = .ok (.hostReadErrInfo lo w) ∧
    decode .host (bytesHost 0#1 (6#6 ++ lo) w) = .ok (.hostReadErrOffset lo w) ∧
    (∃ v : Word32, exec (.hostReadStatus lo w) s = .next { s with out := { s.out with hostRdata := some v } } ∧
      v.extractLsb' 0 2 = (match s.phase with | .sync => 0#2 | .decode => 1#2 | .emit => 2#2 | .halted => 3#2) ∧
      v.extractLsb' 2 2 = (match s.sync with | .seek => 0#2 | .len => 1#2 | .body => 2#2) ∧
      v.getLsbD 4 = s.cancelPending ∧ v.extractLsb' 5 3 = 0#3 ∧
      v.getLsbD 8 = s.fmtSeen ∧ v.getLsbD 9 = s.varSeen ∧ v.getLsbD 10 = s.sinkSeen ∧ v.extractLsb' 11 5 = 0#5 ∧
      v.extractLsb' 16 2 = s.serrCode ∧ v.extractLsb' 18 14 = 0#14) ∧
    (∃ v : Word32, exec (.hostReadErrInfo lo w) s = .next { s with out := { s.out with hostRdata := some v } } ∧
      v.extractLsb' 0 3 = s.err.kind ∧ v.getLsbD 3 = false ∧ v.extractLsb' 4 3 = s.err.reason ∧ v.getLsbD 7 = false ∧
      v.extractLsb' 8 5 = s.err.field ∧ v.extractLsb' 13 3 = 0#3 ∧ v.extractLsb' 16 8 = s.err.byte ∧
      v.extractLsb' 24 8 = 0#8) ∧
    exec (.hostReadErrOffset lo w) s =
      .next { s with out := { s.out with hostRdata := some (s.err.offset.setWidth 32) } }

/-- 44_host_interface.md R117 with R122, R124 and R126: what a read of each offset of the map answers, the offsets it does not list
among them, and that a write anywhere but CTRL, STATUS and FB_ADDR changes nothing. -/
def Obligations.HostReadsAnswerTheRegister : Prop :=
  ∀ (s : State) (off : BitVec 6) (lo : BitVec 2) (w : Word32),
    let answers (off : BitVec 6) (i : Instr) (v : Word32) : Prop :=
      decode .host (bytesHost 0#1 (off ++ lo) w) = .ok i ∧
      exec i s = .next { s with out := { s.out with hostRdata := some v } }
    answers 0#6 (.hostReadCtrl lo w) 0#32 ∧
    answers 1#6 (.hostReadStatus lo w) s.statusWord ∧
    answers 2#6 (.hostReadFbLen lo w) (s.fbLen.setWidth 32) ∧
    answers 3#6 (.hostReadFbAddr lo w) (s.fbAddr.setWidth 32) ∧
    answers 4#6 (.hostReadFbData lo w)
      (if s.fbAddr.toNat ≤ 2048 then (fbRead s.fb s.fbAddr.toNat).setWidth 32 else 0#32) ∧
    answers 5#6 (.hostReadErrInfo lo w) s.errInfoWord ∧
    answers 6#6 (.hostReadErrOffset lo w) (s.err.offset.setWidth 32) ∧
    answers 7#6 (.hostReadCntSeek lo w) s.cntSeek ∧
    answers 8#6 (.hostReadCntCap lo w) s.cntCap ∧
    answers 9#6 (.hostReadCntOk lo w) s.cntOk ∧
    answers 10#6 (.hostReadCntFmt lo w) s.cntFmt ∧
    answers 11#6 (.hostReadCntVar lo w) s.cntVar ∧
    answers 12#6 (.hostReadCntSinkFail lo w) s.cntSinkFail ∧
    (12 < off.toNat → answers off (.hostReadUnmapped (off ++ lo) w) 0#32) ∧
    (off ≠ 0#6 → off ≠ 1#6 → off ≠ 3#6 →
      decode .host (bytesHost 1#1 (off ++ lo) w) = .ok (.hostWriteIgnored (off ++ lo) w) ∧
      exec (.hostWriteIgnored (off ++ lo) w) s = .next s)

/-- 44_host_interface.md R115 and R117 to R127: the row a host word selects, from its word offset (address bits 7:2) alone. -/
def Obligations.HostAddressSelectsTheRow : Prop :=
  ∀ (off : BitVec 6) (lo : BitVec 2) (w : Word32),
    decode .host (bytesHost 1#1 (off ++ lo) w) = .ok (
      if off = 0#6 then
        if w.getLsbD 0 then .hostSrst lo w
        else if w.getLsbD 1 then .hostCancel lo w
        else .hostWriteIgnored (off ++ lo) w
      else if off = 1#6 then .hostW1cStatus lo w
      else if off = 3#6 then .hostWriteFbAddr lo w
      else .hostWriteIgnored (off ++ lo) w) ∧
    decode .host (bytesHost 0#1 (off ++ lo) w) = .ok (
      match off.toNat with
      | 0 => .hostReadCtrl lo w
      | 1 => .hostReadStatus lo w
      | 2 => .hostReadFbLen lo w
      | 3 => .hostReadFbAddr lo w
      | 4 => .hostReadFbData lo w
      | 5 => .hostReadErrInfo lo w
      | 6 => .hostReadErrOffset lo w
      | 7 => .hostReadCntSeek lo w
      | 8 => .hostReadCntCap lo w
      | 9 => .hostReadCntOk lo w
      | 10 => .hostReadCntFmt lo w
      | 11 => .hostReadCntVar lo w
      | 12 => .hostReadCntSinkFail lo w
      | _ => .hostReadUnmapped (off ++ lo) w)

/-- 10_state.md R16 (derived): the sink's buffer read port; it has no side effect, and no step changes what it shows while a record
is held. That it shows the byte from before the edge, at an edge that resets or writes that byte too, is the model's inference
(log entry 10), and that it shows none where the sink does not look its choice (log entry 5). -/
def Obligations.SinkReadPortShowsTheBuffer : Prop :=
  (∀ s t : State, s.dec = none → step s = .next t →
    t.out.sbData = s.nextEdge.sbAddr.map fun a => if a.toNat ≤ 2048 then fbRead s.fb a.toNat else 0x00#8) ∧
  (∀ (s t : State) (e : Edge) (es : List Edge) (a : FbIndex), s.dec = none →
    step { s with edges := { e with sbAddr := none } :: es } = .next t →
    ∃ v, step { s with edges := { e with sbAddr := some a } :: es } = .next { t with out := { t.out with sbData := v } }) ∧
  (∀ (s t : State) (a : FbIndex), s.dec = none → s.outValid = true → step s = .next t → t.sbData a = s.sbData a)

/-! ### The step -/

/-- Derived: at an edge with no reset and no host access, the step is the block's enabled row, the one that the word at its port
decodes to (00_scope.md R6; 10_state.md R13, R15, R20), or nothing; around it the edge is taken and the port outputs are new. The list of edges,
`internal` and the outputs of an edge are the model's (log entries 1, 4 and 5). -/
def Obligations.StepRunsTheDecodedBlockRow : Prop :=
  ∀ s : State, s.dec = none → s.nextEdge.rst = false → s.nextEdge.host = none →
    s.atEdge = { s with
      edges := s.edges.tail, out := ⟨none, none, s.nextEdge.sbAddr.map fun a => fbRead s.fb a.toNat⟩ } ∧
    (∀ k i, s.inReady = true → s.nextEdge.token = some k → decode s.tokenPort (bytesToken k) = .ok i → i.wf = true →
      step s = exec i s.atEdge) ∧
    (s.inReady = true → s.nextEdge.token = none → step s = .next s.atEdge) ∧
    (s.phase = .sync → s.cancelPending = true →
      step s = if s.nextEdge.internal then exec .cancelTake s.atEdge else .next s.atEdge) ∧
    (s.phase = .decode → step s = if s.nextEdge.internal then exec .decodeStep s.atEdge else .next s.atEdge) ∧
    (∀ i, s.phase = .emit → decode .sink [0b000001#6 ++ s.nextEdge.sink] = .ok i → i.wf = true →
      step s = exec i s.atEdge) ∧
    (s.phase = .emit → s.nextEdge.sink.getLsbD 1 = false → step s = .next s.atEdge) ∧
    (s.phase = .halted → step s = .next s.atEdge)

/-- 44_host_interface.md R116: at one edge the host's read comes first, then the block step, then the host's write, with its two
exceptions. `blockStep` is what the step is with no host access. -/
def Obligations.HostAccessSharesTheEdge : Prop :=
  ∀ s : State, s.dec = none → s.nextEdge.rst = false →
    (s.nextEdge.host = none → step s = blockStep s.nextEdge s.atEdge) ∧
    (∀ w i, s.nextEdge.host = some w →
      decode .host (bytesHost (w.extractLsb' 40 1) (w.extractLsb' 32 8) (w.extractLsb' 0 32)) = .ok i → i.wf = true →
      (w.getLsbD 40 = false → step s = andThen (exec i s.atEdge) fun t => blockStep s.nextEdge t) ∧
      (w.getLsbD 40 = true → s.nextEdge.resets = false →
        step s = andThen (blockStep s.nextEdge s.atEdge) fun t => andThen (exec i t) fun u => .next { u with
          fmtSeen := u.fmtSeen || u.raisedNow 1#3
          varSeen := u.varSeen || u.raisedNow 2#3
          sinkSeen := u.sinkSeen || u.raisedNow 4#3 }) ∧
      (w.getLsbD 40 = true → s.nextEdge.resets = true → step s = exec i s.atEdge))

/-- Derived (log entries 2 and 20): inside a decode step, the step is the wire row with the bits at the cursor, a row whose tag the
decoder rejects among them; where the decoder reads a row from the frame's bytes there (BODY: the count item's bytes), it is that
row; and after the last row the step is the record's commit. -/
def Obligations.StepRunsTheDecodedWireRow : Prop :=
  ∀ (s : State) (d : Dec), s.dec = some d →
    (∀ p rest, d.todo = p :: rest → step s = exec (s.wireInstr d p) { s with dec := some { d with todo := rest } }) ∧
    (∀ p rest i, d.todo = p :: rest →
      decode (.wire p) (if p = .body then [0x02#8, d.record.count]
        else s.window d.cur (wireSize p (s.window d.cur 2))) = .ok i → i.wf = true →
      s.wireInstr d p = i ∧ step s = exec i { s with dec := some { d with todo := rest } }) ∧
    (d.todo = [] → step s = .next { s with record := d.record, cntOk := s.cntOk + 1#32, phase := .emit, dec := none })

/-! ### Invariants -/

/-- 40_synchronizer.md R79 item 1, 20_memory.md R38 and R39 (derived): from every state whose capture registers and buffer agree, the
step goes on, to such a state. So no run from reset ever stops. -/
def Obligations.StepKeepsTheCaptureInOrder : Prop :=
  ∀ s : State, s.CaptureOk → ∃ t, step s = .next t ∧ t.CaptureOk

/-- 43_reader_loop.md R113: the law of the counters holds at every point. -/
def Obligations.StepKeepsTheLawOfTheCounters : Prop :=
  ∀ s t : State, s.CountersAgree → step s = .next t → t.CountersAgree

/-- 10_state.md R28 (derived): `serr_code` tells a run that a stream error ended, and the last error of an ended run is that one. -/
def Obligations.StepKeepsTheHaltedCodeInOrder : Prop :=
  ∀ s t : State, s.HaltedAgrees → step s = .next t → t.HaltedAgrees

/-- 10_state.md R32 (derived): `REC` always has the shape of one of the five variants, or holds nothing yet. -/
def Obligations.StepKeepsTheRecordShaped : Prop :=
  ∀ s t : State, s.RecordShaped → step s = .next t → t.RecordShaped

/-- 20_memory.md R38 (derived): a byte of FB changes only by a byte token that the block takes, at the index the capture is at. -/
def Obligations.BufferIsWrittenOnlyByTheCapture : Prop :=
  ∀ (s t : State) (a : Nat), s.dec = none → step s = .next t → fbRead t.fb a ≠ fbRead s.fb a →
    s.nextEdge.resets = false ∧ s.inReady = true ∧ ∃ b, s.nextEdge.token = some (byteToken b) ∧
      ((s.sync = .seek ∧ s.win = 0x7E#8 ∧ b.extractLsb' 4 4 = 0xA#4 ∧ a = 0 ∧ fbRead t.fb a = 0x7E#8) ∨
       (s.sync = .seek ∧ s.win = 0x7E#8 ∧ b.extractLsb' 4 4 = 0xA#4 ∧ a = 1 ∧ fbRead t.fb a = b) ∨
       (s.sync = .len ∧ a = 2 ∧ fbRead t.fb a = b) ∨
       (s.sync = .body ∧ a = s.wp.toNat ∧ fbRead t.fb a = b))

/-- 70_reset_and_hazards.md R142 (derived): no run depends on stale bytes of the buffer; only what the two read ports show does. -/
def Obligations.StaleBytesDoNotInfluenceTheBlock : Prop :=
  ∀ s s' : State, s.CaptureOk → SameButStale s s' →
    ∃ t t', step s = .next t ∧ step s' = .next t' ∧ SameButStale t t'

/-! ### Streams -/

/-- 40_synchronizer.md R79 item 3 (derived): bytes with no start candidate only move the window and count. -/
def Obligations.NoiseIsSkipped : Prop :=
  ∀ (s : State) (noise : List Byte) (rest : List Edge), s.dec = none → s.inReady = true → s.sync = .seek →
    noise ≠ [] → noCandidate s.win noise = true → s.edges = noise.map byteEdge ++ rest →
    runSteps noise.length s = .next { s with
      cntSeek := s.cntSeek + BitVec.ofNat 32 noise.length
      win := noise.getLastD s.win
      edges := rest
      out := ⟨none, none, none⟩ }

/-- 40_synchronizer.md R71 to R75 together (derived): the bytes of a frame, taken from the stream one a step, are captured whole, and
nothing else of FB changes. -/
def Obligations.FrameOnTheStreamIsCaptured : Prop :=
  ∀ (s : State) (frame : List Byte) (rest : List Edge), s.dec = none → s.inReady = true → s.sync = .seek →
    byteAt frame 0 = 0x7E#8 → (byteAt frame 1).extractLsb' 4 4 = 0xA#4 →
    frame.length = captureSize (frameLength (byteAt frame 1) (byteAt frame 2)) →
    s.edges = frame.map byteEdge ++ rest →
    ∃ t : State, runSteps frame.length s = .next t ∧
      t = { s with
        phase := .decode, sync := .seek, win := 0x00#8, flen := frameLength (byteAt frame 1) (byteAt frame 2)
        wp := t.wp, rem := t.rem, fbLen := BitVec.ofNat 12 frame.length
        cntSeek := s.cntSeek + 2#32, cntCap := s.cntCap + 1#32, fb := t.fb, edges := rest, out := ⟨none, none, none⟩ } ∧
      ∀ a, fbRead t.fb a = if a < frame.length then byteAt frame a else fbRead s.fb a

/-! ### Encodings -/

/-- 30_encoding.md R49 to R61 and R66, 44_host_interface.md R117 to R127 (derived): every well-formed instruction reads back from its
own words, whatever follows them. -/
def Obligations.DecodeReadsBackEveryEncoding : Prop :=
  ∀ (i : Instr) (rest : List Byte), i.wf = true → decode (portOf i) (encode i ++ rest) = .ok i

/-- 30_encoding.md R49 and 44_host_interface.md R115 (derived): every token and every host word is a well-formed instruction whose
words give it back; only a byte in BODY with no byte due is none (the model's choice, log entry 7). -/
def Obligations.EveryTokenAndHostWordIsOneInstruction : Prop :=
  (∀ w : HostWord, (decodeHost w).wf = true ∧
    encode (decodeHost w) = bytesHost (w.extractLsb' 40 1) (w.extractLsb' 32 8) (w.extractLsb' 0 32)) ∧
  (∀ (sync : SyncState) (win : Byte) (rem : FbIndex) (k : Token) (i : Instr),
    decodeToken sync win rem k = .ok i → i.wf = true ∧ encode i = bytesToken k) ∧
  (∀ (sync : SyncState) (win : Byte) (rem : FbIndex) (k : Token) (r : Reject),
    decodeToken sync win rem k = .error r → sync = .body ∧ rem = 0#12 ∧ k.extractLsb' 8 2 = 0b00#2)

/-- Derived: words written out by hand from 30_encoding.md R49, R51, R56, R57 and 44_host_interface.md R118, R120 decode to their
instructions. -/
def Obligations.WordsOfTheSpecDecodeAsStated : Prop :=
  decode (.token .seek 0x7E#8 0#12) [0x00#8, 0xA0#8] = .ok (.seekStart 0xA0#8) ∧
  decode (.token .seek 0x7E#8 0#12) [0x00#8, 0x55#8] = .ok (.seekByte 0x55#8) ∧
  decode (.token .body 0x00#8 37#12) [0x01#8, 0x00#8] = .ok (.streamEos 0x00#8) ∧
  decode (.wire .frameInfo) [0xA0#8, 0x26#8] = .ok (.frameInfo 0xA#4 0#1 38#11) ∧
  decode (.wire .body) [0x02#8, 0x12#8] = .ok .variant18 ∧
  decode (.wire (.u32 .pImp)) [0x06#8, 0x00#8, 0x00#8, 0x06#8, 0x40#8] = .ok (.itemU32 .pImp 0x06#8 1600#32) ∧
  decode (.wire (.u32 .pImp)) [0x05#8, 0x00#8, 0x00#8, 0x06#8, 0x40#8] = .error .tagMismatch ∧
  decode .host [0x01#8, 0x00#8, 0x00#8, 0x00#8, 0x00#8, 0x01#8] = .ok (.hostSrst 0#2 1#32) ∧
  decode .host [0x00#8, 0x04#8, 0x00#8, 0x00#8, 0x00#8, 0x00#8] = .ok (.hostReadStatus 0#2 0#32)

end
end

