-- ==== Sys2Proof/Laws/Decode.lean ====
section
/-! SUPPORT. The words of the token, sink and host ports: their bits, and the row each spells. -/

namespace Sys2Proof

/-! ### Bits of assembled words -/

theorem getLsbD_join16 (a b : Byte) (i : Nat) :
    (a ++ b : BitVec 16).getLsbD i = if i < 8 then b.getLsbD i else a.getLsbD (i - 8) := by
  simpa using @BitVec.getLsbD_append 8 8 i a b

theorem getLsbD_join32 (a b : BitVec 16) (i : Nat) :
    (a ++ b : BitVec 32).getLsbD i = if i < 16 then b.getLsbD i else a.getLsbD (i - 16) := by
  simpa using @BitVec.getLsbD_append 16 16 i a b

theorem getLsbD_join40 (a : Byte) (b : BitVec 32) (i : Nat) :
    (a ++ b : BitVec 40).getLsbD i = if i < 32 then b.getLsbD i else a.getLsbD (i - 32) := by
  simpa using @BitVec.getLsbD_append 8 32 i a b

theorem getLsbD_join41 (a : BitVec 1) (b : BitVec 40) (i : Nat) :
    (a ++ b : BitVec 41).getLsbD i = if i < 40 then b.getLsbD i else a.getLsbD (i - 40) := by
  simpa using @BitVec.getLsbD_append 1 40 i a b

theorem getLsbD_join28 (a : BitVec 2) (b : Byte) (i : Nat) :
    (a ++ b : BitVec 10).getLsbD i = if i < 8 then b.getLsbD i else a.getLsbD (i - 8) := by
  simpa using @BitVec.getLsbD_append 2 8 i a b

theorem getLsbD_join19 (a : BitVec 1) (b : BitVec 9) (i : Nat) :
    (a ++ b : BitVec 10).getLsbD i = if i < 9 then b.getLsbD i else a.getLsbD (i - 9) := by
  simpa using @BitVec.getLsbD_append 1 9 i a b

theorem getLsbD_join62 (a : BitVec 6) (b : BitVec 2) (i : Nat) :
    (a ++ b : BitVec 8).getLsbD i = if i < 2 then b.getLsbD i else a.getLsbD (i - 2) := by
  simpa using @BitVec.getLsbD_append 6 2 i a b

theorem getLsbD_join71 (a : BitVec 7) (b : BitVec 1) (i : Nat) :
    (a ++ b : BitVec 8).getLsbD i = if i < 1 then b.getLsbD i else a.getLsbD (i - 1) := by
  simpa using @BitVec.getLsbD_append 7 1 i a b

/-- The bytes of a 16-bit value, most significant first, give it back. -/
theorem be16_bytes16 (v : BitVec 16) (rest : List Byte) : be16 (bytes16 v ++ rest) 0 = v := by
  apply BitVec.eq_of_getLsbD_eq
  intro i hi
  simp only [be16, byteAt, bytes16, List.cons_append, List.nil_append, List.getD_cons_zero, List.getD_cons_succ]
  rw [getLsbD_join16]
  simp only [BitVec.getLsbD_extractLsb']
  grind

/-- The bytes of a 32-bit value, most significant first, give it back. -/
theorem be32_bytes32 (v : BitVec 32) (rest : List Byte) : be32 (bytes32 v ++ rest) 0 = v := by
  apply BitVec.eq_of_getLsbD_eq
  intro i hi
  simp only [be32, be16, byteAt, bytes32, List.cons_append, List.nil_append, List.getD_cons_zero, List.getD_cons_succ]
  rw [getLsbD_join32, getLsbD_join16, getLsbD_join16]
  simp only [BitVec.getLsbD_extractLsb']
  grind

/-! ### Tokens -/

theorem token_of_err {t : Token} (h : t.getLsbD 9 = true) : t = 0b1#1 ++ t.extractLsb' 0 9 := by
  apply BitVec.eq_of_getLsbD_eq
  intro i hi
  rw [getLsbD_join19, BitVec.getLsbD_extractLsb']
  split
  · simp [*]
  · obtain rfl : i = 9 := by omega
    simpa using h

theorem token_of_eos {t : Token} (h : t.getLsbD 9 = false) (h' : t.getLsbD 8 = true) :
    t = 0b01#2 ++ t.extractLsb' 0 8 := by
  apply BitVec.eq_of_getLsbD_eq
  intro i hi
  rw [getLsbD_join28, BitVec.getLsbD_extractLsb']
  split
  · simp [*]
  · obtain rfl | rfl : i = 8 ∨ i = 9 := by omega
    · simpa using h'
    · simpa using h

theorem token_of_byte {t : Token} (h : t.getLsbD 9 = false) (h' : t.getLsbD 8 = false) :
    t = 0b00#2 ++ t.extractLsb' 0 8 := by
  apply BitVec.eq_of_getLsbD_eq
  intro i hi
  rw [getLsbD_join28, BitVec.getLsbD_extractLsb']
  split
  · simp [*]
  · obtain rfl | rfl : i = 8 ∨ i = 9 := by omega
    · simpa using h'
    · simpa using h

/-- A byte token's row, by where the synchronizer stands. -/
theorem decodeToken_byte (sync : SyncState) (win : Byte) (rem : FbIndex) (b : Byte) :
    decodeToken sync win rem (0b00#2 ++ b) =
      match sync with
      | .seek => if startCandidate win b then .ok (.seekStart b) else .ok (.seekByte b)
      | .len => .ok (.lenByte b)
      | .body =>
        if rem = 0#12 then .error .bodyNothingDue
        else if rem = 1#12 then .ok (.bodyLast b) else .ok (.bodyByte b) := by
  have h9 : (0b00#2 ++ b : Token).getLsbD 9 = false := by rw [getLsbD_join28]; rfl
  have h8 : (0b00#2 ++ b : Token).getLsbD 8 = false := by rw [getLsbD_join28]; rfl
  have hb : (0b00#2 ++ b : Token).extractLsb' 0 8 = b := by
    apply BitVec.eq_of_getLsbD_eq
    intro i hi
    rw [BitVec.getLsbD_extractLsb', getLsbD_join28]
    simp [hi]
  unfold decodeToken
  rw [h9, h8, hb]
  rfl

theorem decodeToken_eos (sync : SyncState) (win : Byte) (rem : FbIndex) (b : Byte) :
    decodeToken sync win rem (0b01#2 ++ b) = .ok (.streamEos b) := by
  have h9 : (0b01#2 ++ b : Token).getLsbD 9 = false := by rw [getLsbD_join28]; rfl
  have h8 : (0b01#2 ++ b : Token).getLsbD 8 = true := by rw [getLsbD_join28]; rfl
  have hb : (0b01#2 ++ b : Token).extractLsb' 0 8 = b := by
    apply BitVec.eq_of_getLsbD_eq
    intro i hi
    rw [BitVec.getLsbD_extractLsb', getLsbD_join28]
    simp [hi]
  unfold decodeToken
  rw [h9, h8, hb]
  rfl

theorem decodeToken_ioerr (sync : SyncState) (win : Byte) (rem : FbIndex) (x : BitVec 9) :
    decodeToken sync win rem (0b1#1 ++ x) = .ok (.streamIoerr x) := by
  have h9 : (0b1#1 ++ x : Token).getLsbD 9 = true := by rw [getLsbD_join19]; rfl
  have hb : (0b1#1 ++ x : Token).extractLsb' 0 9 = x := by
    apply BitVec.eq_of_getLsbD_eq
    intro i hi
    rw [BitVec.getLsbD_extractLsb', getLsbD_join19]
    simp [hi]
  unfold decodeToken
  rw [h9, hb]
  rfl

/-- A token's two bytes are read back. -/
theorem decode_bytesToken (sync : SyncState) (win : Byte) (rem : FbIndex) (t : Token) (rest : List Byte) :
    decode (.token sync win rem) (bytesToken t ++ rest) = decodeToken sync win rem t := by
  have hw (i : Nat) : (be16 (bytesToken t ++ rest) 0).getLsbD i = t.getLsbD i := by
    simp only [be16, byteAt, bytesToken, List.cons_append, List.nil_append, List.getD_cons_zero, List.getD_cons_succ]
    rw [getLsbD_join16, getLsbD_join62]
    simp only [BitVec.getLsbD_extractLsb']
    have : i ≥ 10 → t.getLsbD i = false := fun h => BitVec.getLsbD_of_ge t i h
    grind
  have h1 : (be16 (bytesToken t ++ rest) 0).extractLsb' 10 6 = 0#6 := by
    apply BitVec.eq_of_getLsbD_eq
    intro i hi
    rw [BitVec.getLsbD_extractLsb', hw, BitVec.getLsbD_of_ge t (10 + i) (by omega)]
    simp
  have h2 : (be16 (bytesToken t ++ rest) 0).extractLsb' 0 10 = t := by
    apply BitVec.eq_of_getLsbD_eq
    intro i hi
    rw [BitVec.getLsbD_extractLsb', hw]
    simp [hi]
  have hl : ¬(bytesToken t ++ rest).length < 2 := by simp [bytesToken]
  simp only [decode, hl, h1, h2, if_false]
  rfl

/-- A host access's six bytes are read back. -/
theorem decode_bytesHost (we : BitVec 1) (addr : Byte) (wdata : Word32) (rest : List Byte) :
    decode .host (bytesHost we addr wdata ++ rest) = .ok (decodeHost (we ++ (addr ++ wdata : BitVec 40))) := by
  have h1 : byteAt (bytesHost we addr wdata ++ rest) 0 = 0#7 ++ we := rfl
  have h2 : byteAt (bytesHost we addr wdata ++ rest) 1 = addr := rfl
  have h3 : be32 (bytesHost we addr wdata ++ rest) 2 = wdata := be32_bytes32 wdata rest
  have h4 : (0#7 ++ we : BitVec 8).extractLsb' 1 7 = 0#7 := by clear h1 h2 h3; revert we; decide
  have h5 : (0#7 ++ we : BitVec 8).extractLsb' 0 1 = we := by clear h1 h2 h3 h4; revert we; decide
  have h6 : ¬(bytesHost we addr wdata ++ rest).length < 6 := by simp [bytesHost, bytes32]
  simp only [decode, h1, h2, h3, h6, if_false]
  rw [h4, h5]
  rfl

end Sys2Proof
end

