-- ==== Sys2Proof/Laws/State.lean ====
section
/-! SUPPORT. What each named update of the state leaves in each field, one lemma a field. -/

namespace Sys2Proof.Machine

/-! ### `State.hostReply` -/

@[simp] theorem State.hostReply_phase (v : Word32) (s : State) : (s.hostReply v).phase = s.phase := rfl
@[simp] theorem State.hostReply_sync (v : Word32) (s : State) : (s.hostReply v).sync = s.sync := rfl
@[simp] theorem State.hostReply_win (v : Word32) (s : State) : (s.hostReply v).win = s.win := rfl
@[simp] theorem State.hostReply_flen (v : Word32) (s : State) : (s.hostReply v).flen = s.flen := rfl
@[simp] theorem State.hostReply_rem (v : Word32) (s : State) : (s.hostReply v).rem = s.rem := rfl
@[simp] theorem State.hostReply_wp (v : Word32) (s : State) : (s.hostReply v).wp = s.wp := rfl
@[simp] theorem State.hostReply_fbLen (v : Word32) (s : State) : (s.hostReply v).fbLen = s.fbLen := rfl
@[simp] theorem State.hostReply_cancelPending (v : Word32) (s : State) : (s.hostReply v).cancelPending = s.cancelPending := rfl
@[simp] theorem State.hostReply_serrCode (v : Word32) (s : State) : (s.hostReply v).serrCode = s.serrCode := rfl
@[simp] theorem State.hostReply_err (v : Word32) (s : State) : (s.hostReply v).err = s.err := rfl
@[simp] theorem State.hostReply_fmtSeen (v : Word32) (s : State) : (s.hostReply v).fmtSeen = s.fmtSeen := rfl
@[simp] theorem State.hostReply_varSeen (v : Word32) (s : State) : (s.hostReply v).varSeen = s.varSeen := rfl
@[simp] theorem State.hostReply_sinkSeen (v : Word32) (s : State) : (s.hostReply v).sinkSeen = s.sinkSeen := rfl
@[simp] theorem State.hostReply_cntSeek (v : Word32) (s : State) : (s.hostReply v).cntSeek = s.cntSeek := rfl
@[simp] theorem State.hostReply_cntCap (v : Word32) (s : State) : (s.hostReply v).cntCap = s.cntCap := rfl
@[simp] theorem State.hostReply_cntOk (v : Word32) (s : State) : (s.hostReply v).cntOk = s.cntOk := rfl
@[simp] theorem State.hostReply_cntFmt (v : Word32) (s : State) : (s.hostReply v).cntFmt = s.cntFmt := rfl
@[simp] theorem State.hostReply_cntVar (v : Word32) (s : State) : (s.hostReply v).cntVar = s.cntVar := rfl
@[simp] theorem State.hostReply_cntSinkFail (v : Word32) (s : State) : (s.hostReply v).cntSinkFail = s.cntSinkFail := rfl
@[simp] theorem State.hostReply_record (v : Word32) (s : State) : (s.hostReply v).record = s.record := rfl
@[simp] theorem State.hostReply_fb (v : Word32) (s : State) : (s.hostReply v).fb = s.fb := rfl
@[simp] theorem State.hostReply_fbAddr (v : Word32) (s : State) : (s.hostReply v).fbAddr = s.fbAddr := rfl
@[simp] theorem State.hostReply_out (v : Word32) (s : State) : (s.hostReply v).out = { s.out with hostRdata := some v } := rfl
@[simp] theorem State.hostReply_edges (v : Word32) (s : State) : (s.hostReply v).edges = s.edges := rfl
@[simp] theorem State.hostReply_dec (v : Word32) (s : State) : (s.hostReply v).dec = s.dec := rfl

/-! ### `State.raise` -/

@[simp] theorem State.raise_phase (e : Err) (s : State) : (s.raise e).phase = s.phase := rfl
@[simp] theorem State.raise_sync (e : Err) (s : State) : (s.raise e).sync = s.sync := rfl
@[simp] theorem State.raise_win (e : Err) (s : State) : (s.raise e).win = s.win := rfl
@[simp] theorem State.raise_flen (e : Err) (s : State) : (s.raise e).flen = s.flen := rfl
@[simp] theorem State.raise_rem (e : Err) (s : State) : (s.raise e).rem = s.rem := rfl
@[simp] theorem State.raise_wp (e : Err) (s : State) : (s.raise e).wp = s.wp := rfl
@[simp] theorem State.raise_fbLen (e : Err) (s : State) : (s.raise e).fbLen = s.fbLen := rfl
@[simp] theorem State.raise_cancelPending (e : Err) (s : State) : (s.raise e).cancelPending = s.cancelPending := rfl
@[simp] theorem State.raise_serrCode (e : Err) (s : State) : (s.raise e).serrCode = s.serrCode := rfl
@[simp] theorem State.raise_err (e : Err) (s : State) : (s.raise e).err = e.record := rfl
@[simp] theorem State.raise_fmtSeen (e : Err) (s : State) : (s.raise e).fmtSeen = (s.fmtSeen || e.isFormat) := rfl
@[simp] theorem State.raise_varSeen (e : Err) (s : State) : (s.raise e).varSeen = (s.varSeen || e.isVariant) := rfl
@[simp] theorem State.raise_sinkSeen (e : Err) (s : State) : (s.raise e).sinkSeen = (s.sinkSeen || e.isSink) := rfl
@[simp] theorem State.raise_cntSeek (e : Err) (s : State) : (s.raise e).cntSeek = s.cntSeek := rfl
@[simp] theorem State.raise_cntCap (e : Err) (s : State) : (s.raise e).cntCap = s.cntCap := rfl
@[simp] theorem State.raise_cntOk (e : Err) (s : State) : (s.raise e).cntOk = s.cntOk := rfl
@[simp] theorem State.raise_cntFmt (e : Err) (s : State) : (s.raise e).cntFmt = s.cntFmt + tick e.isFormat := rfl
@[simp] theorem State.raise_cntVar (e : Err) (s : State) : (s.raise e).cntVar = s.cntVar + tick e.isVariant := rfl
@[simp] theorem State.raise_cntSinkFail (e : Err) (s : State) : (s.raise e).cntSinkFail = s.cntSinkFail := rfl
@[simp] theorem State.raise_record (e : Err) (s : State) : (s.raise e).record = s.record := rfl
@[simp] theorem State.raise_fb (e : Err) (s : State) : (s.raise e).fb = s.fb := rfl
@[simp] theorem State.raise_fbAddr (e : Err) (s : State) : (s.raise e).fbAddr = s.fbAddr := rfl
@[simp] theorem State.raise_out (e : Err) (s : State) : (s.raise e).out = { s.out with log := some e.record } := rfl
@[simp] theorem State.raise_edges (e : Err) (s : State) : (s.raise e).edges = s.edges := rfl
@[simp] theorem State.raise_dec (e : Err) (s : State) : (s.raise e).dec = s.dec := rfl

/-! ### `State.resume` -/

@[simp] theorem State.resume_phase (s : State) : (s.resume).phase = Phase.sync := rfl
@[simp] theorem State.resume_sync (s : State) : (s.resume).sync = s.sync := rfl
@[simp] theorem State.resume_win (s : State) : (s.resume).win = s.win := rfl
@[simp] theorem State.resume_flen (s : State) : (s.resume).flen = s.flen := rfl
@[simp] theorem State.resume_rem (s : State) : (s.resume).rem = s.rem := rfl
@[simp] theorem State.resume_wp (s : State) : (s.resume).wp = s.wp := rfl
@[simp] theorem State.resume_fbLen (s : State) : (s.resume).fbLen = s.fbLen := rfl
@[simp] theorem State.resume_cancelPending (s : State) : (s.resume).cancelPending = s.cancelPending := rfl
@[simp] theorem State.resume_serrCode (s : State) : (s.resume).serrCode = s.serrCode := rfl
@[simp] theorem State.resume_err (s : State) : (s.resume).err = s.err := rfl
@[simp] theorem State.resume_fmtSeen (s : State) : (s.resume).fmtSeen = s.fmtSeen := rfl
@[simp] theorem State.resume_varSeen (s : State) : (s.resume).varSeen = s.varSeen := rfl
@[simp] theorem State.resume_sinkSeen (s : State) : (s.resume).sinkSeen = s.sinkSeen := rfl
@[simp] theorem State.resume_cntSeek (s : State) : (s.resume).cntSeek = s.cntSeek := rfl
@[simp] theorem State.resume_cntCap (s : State) : (s.resume).cntCap = s.cntCap := rfl
@[simp] theorem State.resume_cntOk (s : State) : (s.resume).cntOk = s.cntOk := rfl
@[simp] theorem State.resume_cntFmt (s : State) : (s.resume).cntFmt = s.cntFmt := rfl
@[simp] theorem State.resume_cntVar (s : State) : (s.resume).cntVar = s.cntVar := rfl
@[simp] theorem State.resume_cntSinkFail (s : State) : (s.resume).cntSinkFail = s.cntSinkFail := rfl
@[simp] theorem State.resume_record (s : State) : (s.resume).record = s.record := rfl
@[simp] theorem State.resume_fb (s : State) : (s.resume).fb = s.fb := rfl
@[simp] theorem State.resume_fbAddr (s : State) : (s.resume).fbAddr = s.fbAddr := rfl
@[simp] theorem State.resume_out (s : State) : (s.resume).out = s.out := rfl
@[simp] theorem State.resume_edges (s : State) : (s.resume).edges = s.edges := rfl
@[simp] theorem State.resume_dec (s : State) : (s.resume).dec = none := rfl

/-! ### `State.frameError` -/

@[simp] theorem State.frameError_phase (e : Err) (s : State) : (s.frameError e).phase = Phase.sync := rfl
@[simp] theorem State.frameError_sync (e : Err) (s : State) : (s.frameError e).sync = s.sync := rfl
@[simp] theorem State.frameError_win (e : Err) (s : State) : (s.frameError e).win = s.win := rfl
@[simp] theorem State.frameError_flen (e : Err) (s : State) : (s.frameError e).flen = s.flen := rfl
@[simp] theorem State.frameError_rem (e : Err) (s : State) : (s.frameError e).rem = s.rem := rfl
@[simp] theorem State.frameError_wp (e : Err) (s : State) : (s.frameError e).wp = s.wp := rfl
@[simp] theorem State.frameError_fbLen (e : Err) (s : State) : (s.frameError e).fbLen = s.fbLen := rfl
@[simp] theorem State.frameError_cancelPending (e : Err) (s : State) : (s.frameError e).cancelPending = s.cancelPending := rfl
@[simp] theorem State.frameError_serrCode (e : Err) (s : State) : (s.frameError e).serrCode = s.serrCode := rfl
@[simp] theorem State.frameError_err (e : Err) (s : State) : (s.frameError e).err = e.record := rfl
@[simp] theorem State.frameError_fmtSeen (e : Err) (s : State) : (s.frameError e).fmtSeen = (s.fmtSeen || e.isFormat) := rfl
@[simp] theorem State.frameError_varSeen (e : Err) (s : State) : (s.frameError e).varSeen = (s.varSeen || e.isVariant) := rfl
@[simp] theorem State.frameError_sinkSeen (e : Err) (s : State) : (s.frameError e).sinkSeen = (s.sinkSeen || e.isSink) := rfl
@[simp] theorem State.frameError_cntSeek (e : Err) (s : State) : (s.frameError e).cntSeek = s.cntSeek := rfl
@[simp] theorem State.frameError_cntCap (e : Err) (s : State) : (s.frameError e).cntCap = s.cntCap := rfl
@[simp] theorem State.frameError_cntOk (e : Err) (s : State) : (s.frameError e).cntOk = s.cntOk := rfl
@[simp] theorem State.frameError_cntFmt (e : Err) (s : State) : (s.frameError e).cntFmt = s.cntFmt + tick e.isFormat := rfl
@[simp] theorem State.frameError_cntVar (e : Err) (s : State) : (s.frameError e).cntVar = s.cntVar + tick e.isVariant := rfl
@[simp] theorem State.frameError_cntSinkFail (e : Err) (s : State) : (s.frameError e).cntSinkFail = s.cntSinkFail := rfl
@[simp] theorem State.frameError_record (e : Err) (s : State) : (s.frameError e).record = s.record := rfl
@[simp] theorem State.frameError_fb (e : Err) (s : State) : (s.frameError e).fb = s.fb := rfl
@[simp] theorem State.frameError_fbAddr (e : Err) (s : State) : (s.frameError e).fbAddr = s.fbAddr := rfl
@[simp] theorem State.frameError_out (e : Err) (s : State) : (s.frameError e).out = { s.out with log := some e.record } := rfl
@[simp] theorem State.frameError_edges (e : Err) (s : State) : (s.frameError e).edges = s.edges := rfl
@[simp] theorem State.frameError_dec (e : Err) (s : State) : (s.frameError e).dec = none := rfl

/-! ### `State.streamError` -/

@[simp] theorem State.streamError_phase (r : StreamReason) (s : State) : (s.streamError r).phase = Phase.halted := rfl
@[simp] theorem State.streamError_sync (r : StreamReason) (s : State) : (s.streamError r).sync = s.sync := rfl
@[simp] theorem State.streamError_win (r : StreamReason) (s : State) : (s.streamError r).win = s.win := rfl
@[simp] theorem State.streamError_flen (r : StreamReason) (s : State) : (s.streamError r).flen = s.flen := rfl
@[simp] theorem State.streamError_rem (r : StreamReason) (s : State) : (s.streamError r).rem = s.rem := rfl
@[simp] theorem State.streamError_wp (r : StreamReason) (s : State) : (s.streamError r).wp = s.wp := rfl
@[simp] theorem State.streamError_fbLen (r : StreamReason) (s : State) : (s.streamError r).fbLen = s.fbLen := rfl
@[simp] theorem State.streamError_cancelPending (r : StreamReason) (s : State) : (s.streamError r).cancelPending = s.cancelPending := rfl
@[simp] theorem State.streamError_serrCode (r : StreamReason) (s : State) : (s.streamError r).serrCode = r.code := rfl
@[simp] theorem State.streamError_err (r : StreamReason) (s : State) : (s.streamError r).err = (Err.stream r s.sync s.wp).record := rfl
@[simp] theorem State.streamError_fmtSeen (r : StreamReason) (s : State) : (s.streamError r).fmtSeen = (s.fmtSeen || false) := rfl
@[simp] theorem State.streamError_varSeen (r : StreamReason) (s : State) : (s.streamError r).varSeen = (s.varSeen || false) := rfl
@[simp] theorem State.streamError_sinkSeen (r : StreamReason) (s : State) : (s.streamError r).sinkSeen = (s.sinkSeen || false) := rfl
@[simp] theorem State.streamError_cntSeek (r : StreamReason) (s : State) : (s.streamError r).cntSeek = s.cntSeek := rfl
@[simp] theorem State.streamError_cntCap (r : StreamReason) (s : State) : (s.streamError r).cntCap = s.cntCap := rfl
@[simp] theorem State.streamError_cntOk (r : StreamReason) (s : State) : (s.streamError r).cntOk = s.cntOk := rfl
@[simp] theorem State.streamError_cntFmt (r : StreamReason) (s : State) : (s.streamError r).cntFmt = s.cntFmt + tick false := rfl
@[simp] theorem State.streamError_cntVar (r : StreamReason) (s : State) : (s.streamError r).cntVar = s.cntVar + tick false := rfl
@[simp] theorem State.streamError_cntSinkFail (r : StreamReason) (s : State) : (s.streamError r).cntSinkFail = s.cntSinkFail := rfl
@[simp] theorem State.streamError_record (r : StreamReason) (s : State) : (s.streamError r).record = s.record := rfl
@[simp] theorem State.streamError_fb (r : StreamReason) (s : State) : (s.streamError r).fb = s.fb := rfl
@[simp] theorem State.streamError_fbAddr (r : StreamReason) (s : State) : (s.streamError r).fbAddr = s.fbAddr := rfl
@[simp] theorem State.streamError_out (r : StreamReason) (s : State) : (s.streamError r).out = { s.out with log := some (Err.stream r s.sync s.wp).record } := rfl
@[simp] theorem State.streamError_edges (r : StreamReason) (s : State) : (s.streamError r).edges = s.edges := rfl
@[simp] theorem State.streamError_dec (r : StreamReason) (s : State) : (s.streamError r).dec = s.dec := rfl

/-! ### `State.captureComplete` -/

@[simp] theorem State.captureComplete_phase (n : BitVec 12) (s : State) : (s.captureComplete n).phase = Phase.decode := rfl
@[simp] theorem State.captureComplete_sync (n : BitVec 12) (s : State) : (s.captureComplete n).sync = SyncState.seek := rfl
@[simp] theorem State.captureComplete_win (n : BitVec 12) (s : State) : (s.captureComplete n).win = 0x00#8 := rfl
@[simp] theorem State.captureComplete_flen (n : BitVec 12) (s : State) : (s.captureComplete n).flen = s.flen := rfl
@[simp] theorem State.captureComplete_rem (n : BitVec 12) (s : State) : (s.captureComplete n).rem = s.rem := rfl
@[simp] theorem State.captureComplete_wp (n : BitVec 12) (s : State) : (s.captureComplete n).wp = s.wp := rfl
@[simp] theorem State.captureComplete_fbLen (n : BitVec 12) (s : State) : (s.captureComplete n).fbLen = n := rfl
@[simp] theorem State.captureComplete_cancelPending (n : BitVec 12) (s : State) : (s.captureComplete n).cancelPending = s.cancelPending := rfl
@[simp] theorem State.captureComplete_serrCode (n : BitVec 12) (s : State) : (s.captureComplete n).serrCode = s.serrCode := rfl
@[simp] theorem State.captureComplete_err (n : BitVec 12) (s : State) : (s.captureComplete n).err = s.err := rfl
@[simp] theorem State.captureComplete_fmtSeen (n : BitVec 12) (s : State) : (s.captureComplete n).fmtSeen = s.fmtSeen := rfl
@[simp] theorem State.captureComplete_varSeen (n : BitVec 12) (s : State) : (s.captureComplete n).varSeen = s.varSeen := rfl
@[simp] theorem State.captureComplete_sinkSeen (n : BitVec 12) (s : State) : (s.captureComplete n).sinkSeen = s.sinkSeen := rfl
@[simp] theorem State.captureComplete_cntSeek (n : BitVec 12) (s : State) : (s.captureComplete n).cntSeek = s.cntSeek := rfl
@[simp] theorem State.captureComplete_cntCap (n : BitVec 12) (s : State) : (s.captureComplete n).cntCap = s.cntCap + 1#32 := rfl
@[simp] theorem State.captureComplete_cntOk (n : BitVec 12) (s : State) : (s.captureComplete n).cntOk = s.cntOk := rfl
@[simp] theorem State.captureComplete_cntFmt (n : BitVec 12) (s : State) : (s.captureComplete n).cntFmt = s.cntFmt := rfl
@[simp] theorem State.captureComplete_cntVar (n : BitVec 12) (s : State) : (s.captureComplete n).cntVar = s.cntVar := rfl
@[simp] theorem State.captureComplete_cntSinkFail (n : BitVec 12) (s : State) : (s.captureComplete n).cntSinkFail = s.cntSinkFail := rfl
@[simp] theorem State.captureComplete_record (n : BitVec 12) (s : State) : (s.captureComplete n).record = s.record := rfl
@[simp] theorem State.captureComplete_fb (n : BitVec 12) (s : State) : (s.captureComplete n).fb = s.fb := rfl
@[simp] theorem State.captureComplete_fbAddr (n : BitVec 12) (s : State) : (s.captureComplete n).fbAddr = s.fbAddr := rfl
@[simp] theorem State.captureComplete_out (n : BitVec 12) (s : State) : (s.captureComplete n).out = s.out := rfl
@[simp] theorem State.captureComplete_edges (n : BitVec 12) (s : State) : (s.captureComplete n).edges = s.edges := rfl
@[simp] theorem State.captureComplete_dec (n : BitVec 12) (s : State) : (s.captureComplete n).dec = s.dec := rfl

/-! ### `State.commit` -/

@[simp] theorem State.commit_phase (r : Rec) (s : State) : (s.commit r).phase = Phase.emit := rfl
@[simp] theorem State.commit_sync (r : Rec) (s : State) : (s.commit r).sync = s.sync := rfl
@[simp] theorem State.commit_win (r : Rec) (s : State) : (s.commit r).win = s.win := rfl
@[simp] theorem State.commit_flen (r : Rec) (s : State) : (s.commit r).flen = s.flen := rfl
@[simp] theorem State.commit_rem (r : Rec) (s : State) : (s.commit r).rem = s.rem := rfl
@[simp] theorem State.commit_wp (r : Rec) (s : State) : (s.commit r).wp = s.wp := rfl
@[simp] theorem State.commit_fbLen (r : Rec) (s : State) : (s.commit r).fbLen = s.fbLen := rfl
@[simp] theorem State.commit_cancelPending (r : Rec) (s : State) : (s.commit r).cancelPending = s.cancelPending := rfl
@[simp] theorem State.commit_serrCode (r : Rec) (s : State) : (s.commit r).serrCode = s.serrCode := rfl
@[simp] theorem State.commit_err (r : Rec) (s : State) : (s.commit r).err = s.err := rfl
@[simp] theorem State.commit_fmtSeen (r : Rec) (s : State) : (s.commit r).fmtSeen = s.fmtSeen := rfl
@[simp] theorem State.commit_varSeen (r : Rec) (s : State) : (s.commit r).varSeen = s.varSeen := rfl
@[simp] theorem State.commit_sinkSeen (r : Rec) (s : State) : (s.commit r).sinkSeen = s.sinkSeen := rfl
@[simp] theorem State.commit_cntSeek (r : Rec) (s : State) : (s.commit r).cntSeek = s.cntSeek := rfl
@[simp] theorem State.commit_cntCap (r : Rec) (s : State) : (s.commit r).cntCap = s.cntCap := rfl
@[simp] theorem State.commit_cntOk (r : Rec) (s : State) : (s.commit r).cntOk = s.cntOk + 1#32 := rfl
@[simp] theorem State.commit_cntFmt (r : Rec) (s : State) : (s.commit r).cntFmt = s.cntFmt := rfl
@[simp] theorem State.commit_cntVar (r : Rec) (s : State) : (s.commit r).cntVar = s.cntVar := rfl
@[simp] theorem State.commit_cntSinkFail (r : Rec) (s : State) : (s.commit r).cntSinkFail = s.cntSinkFail := rfl
@[simp] theorem State.commit_record (r : Rec) (s : State) : (s.commit r).record = r := rfl
@[simp] theorem State.commit_fb (r : Rec) (s : State) : (s.commit r).fb = s.fb := rfl
@[simp] theorem State.commit_fbAddr (r : Rec) (s : State) : (s.commit r).fbAddr = s.fbAddr := rfl
@[simp] theorem State.commit_out (r : Rec) (s : State) : (s.commit r).out = s.out := rfl
@[simp] theorem State.commit_edges (r : Rec) (s : State) : (s.commit r).edges = s.edges := rfl
@[simp] theorem State.commit_dec (r : Rec) (s : State) : (s.commit r).dec = none := rfl

/-! ### `State.softReset` -/

@[simp] theorem State.softReset_phase (s : State) : (s.softReset).phase = State.reset.phase := rfl
@[simp] theorem State.softReset_sync (s : State) : (s.softReset).sync = State.reset.sync := rfl
@[simp] theorem State.softReset_win (s : State) : (s.softReset).win = State.reset.win := rfl
@[simp] theorem State.softReset_flen (s : State) : (s.softReset).flen = State.reset.flen := rfl
@[simp] theorem State.softReset_rem (s : State) : (s.softReset).rem = State.reset.rem := rfl
@[simp] theorem State.softReset_wp (s : State) : (s.softReset).wp = State.reset.wp := rfl
@[simp] theorem State.softReset_fbLen (s : State) : (s.softReset).fbLen = State.reset.fbLen := rfl
@[simp] theorem State.softReset_cancelPending (s : State) : (s.softReset).cancelPending = State.reset.cancelPending := rfl
@[simp] theorem State.softReset_serrCode (s : State) : (s.softReset).serrCode = State.reset.serrCode := rfl
@[simp] theorem State.softReset_err (s : State) : (s.softReset).err = State.reset.err := rfl
@[simp] theorem State.softReset_fmtSeen (s : State) : (s.softReset).fmtSeen = State.reset.fmtSeen := rfl
@[simp] theorem State.softReset_varSeen (s : State) : (s.softReset).varSeen = State.reset.varSeen := rfl
@[simp] theorem State.softReset_sinkSeen (s : State) : (s.softReset).sinkSeen = State.reset.sinkSeen := rfl
@[simp] theorem State.softReset_cntSeek (s : State) : (s.softReset).cntSeek = State.reset.cntSeek := rfl
@[simp] theorem State.softReset_cntCap (s : State) : (s.softReset).cntCap = State.reset.cntCap := rfl
@[simp] theorem State.softReset_cntOk (s : State) : (s.softReset).cntOk = State.reset.cntOk := rfl
@[simp] theorem State.softReset_cntFmt (s : State) : (s.softReset).cntFmt = State.reset.cntFmt := rfl
@[simp] theorem State.softReset_cntVar (s : State) : (s.softReset).cntVar = State.reset.cntVar := rfl
@[simp] theorem State.softReset_cntSinkFail (s : State) : (s.softReset).cntSinkFail = State.reset.cntSinkFail := rfl
@[simp] theorem State.softReset_record (s : State) : (s.softReset).record = State.reset.record := rfl
@[simp] theorem State.softReset_fb (s : State) : (s.softReset).fb = s.fb := rfl
@[simp] theorem State.softReset_fbAddr (s : State) : (s.softReset).fbAddr = State.reset.fbAddr := rfl
@[simp] theorem State.softReset_out (s : State) : (s.softReset).out = { Out.zero with sbData := s.out.sbData } := rfl
@[simp] theorem State.softReset_edges (s : State) : (s.softReset).edges = s.edges := rfl
@[simp] theorem State.softReset_dec (s : State) : (s.softReset).dec = State.reset.dec := rfl

/-! ### `State.clearFlags` -/

@[simp] theorem State.clearFlags_phase (w : Word32) (s : State) : (s.clearFlags w).phase = s.phase := rfl
@[simp] theorem State.clearFlags_sync (w : Word32) (s : State) : (s.clearFlags w).sync = s.sync := rfl
@[simp] theorem State.clearFlags_win (w : Word32) (s : State) : (s.clearFlags w).win = s.win := rfl
@[simp] theorem State.clearFlags_flen (w : Word32) (s : State) : (s.clearFlags w).flen = s.flen := rfl
@[simp] theorem State.clearFlags_rem (w : Word32) (s : State) : (s.clearFlags w).rem = s.rem := rfl
@[simp] theorem State.clearFlags_wp (w : Word32) (s : State) : (s.clearFlags w).wp = s.wp := rfl
@[simp] theorem State.clearFlags_fbLen (w : Word32) (s : State) : (s.clearFlags w).fbLen = s.fbLen := rfl
@[simp] theorem State.clearFlags_cancelPending (w : Word32) (s : State) : (s.clearFlags w).cancelPending = s.cancelPending := rfl
@[simp] theorem State.clearFlags_serrCode (w : Word32) (s : State) : (s.clearFlags w).serrCode = s.serrCode := rfl
@[simp] theorem State.clearFlags_err (w : Word32) (s : State) : (s.clearFlags w).err = s.err := rfl
@[simp] theorem State.clearFlags_fmtSeen (w : Word32) (s : State) : (s.clearFlags w).fmtSeen = (s.fmtSeen && !w.getLsbD 8) := rfl
@[simp] theorem State.clearFlags_varSeen (w : Word32) (s : State) : (s.clearFlags w).varSeen = (s.varSeen && !w.getLsbD 9) := rfl
@[simp] theorem State.clearFlags_sinkSeen (w : Word32) (s : State) : (s.clearFlags w).sinkSeen = (s.sinkSeen && !w.getLsbD 10) := rfl
@[simp] theorem State.clearFlags_cntSeek (w : Word32) (s : State) : (s.clearFlags w).cntSeek = s.cntSeek := rfl
@[simp] theorem State.clearFlags_cntCap (w : Word32) (s : State) : (s.clearFlags w).cntCap = s.cntCap := rfl
@[simp] theorem State.clearFlags_cntOk (w : Word32) (s : State) : (s.clearFlags w).cntOk = s.cntOk := rfl
@[simp] theorem State.clearFlags_cntFmt (w : Word32) (s : State) : (s.clearFlags w).cntFmt = s.cntFmt := rfl
@[simp] theorem State.clearFlags_cntVar (w : Word32) (s : State) : (s.clearFlags w).cntVar = s.cntVar := rfl
@[simp] theorem State.clearFlags_cntSinkFail (w : Word32) (s : State) : (s.clearFlags w).cntSinkFail = s.cntSinkFail := rfl
@[simp] theorem State.clearFlags_record (w : Word32) (s : State) : (s.clearFlags w).record = s.record := rfl
@[simp] theorem State.clearFlags_fb (w : Word32) (s : State) : (s.clearFlags w).fb = s.fb := rfl
@[simp] theorem State.clearFlags_fbAddr (w : Word32) (s : State) : (s.clearFlags w).fbAddr = s.fbAddr := rfl
@[simp] theorem State.clearFlags_out (w : Word32) (s : State) : (s.clearFlags w).out = s.out := rfl
@[simp] theorem State.clearFlags_edges (w : Word32) (s : State) : (s.clearFlags w).edges = s.edges := rfl
@[simp] theorem State.clearFlags_dec (w : Word32) (s : State) : (s.clearFlags w).dec = s.dec := rfl

/-! ### `State.keepRaised` -/

@[simp] theorem State.keepRaised_phase (s : State) : (s.keepRaised).phase = s.phase := rfl
@[simp] theorem State.keepRaised_sync (s : State) : (s.keepRaised).sync = s.sync := rfl
@[simp] theorem State.keepRaised_win (s : State) : (s.keepRaised).win = s.win := rfl
@[simp] theorem State.keepRaised_flen (s : State) : (s.keepRaised).flen = s.flen := rfl
@[simp] theorem State.keepRaised_rem (s : State) : (s.keepRaised).rem = s.rem := rfl
@[simp] theorem State.keepRaised_wp (s : State) : (s.keepRaised).wp = s.wp := rfl
@[simp] theorem State.keepRaised_fbLen (s : State) : (s.keepRaised).fbLen = s.fbLen := rfl
@[simp] theorem State.keepRaised_cancelPending (s : State) : (s.keepRaised).cancelPending = s.cancelPending := rfl
@[simp] theorem State.keepRaised_serrCode (s : State) : (s.keepRaised).serrCode = s.serrCode := rfl
@[simp] theorem State.keepRaised_err (s : State) : (s.keepRaised).err = s.err := rfl
@[simp] theorem State.keepRaised_fmtSeen (s : State) : (s.keepRaised).fmtSeen = (s.fmtSeen || s.raisedNow 1#3) := rfl
@[simp] theorem State.keepRaised_varSeen (s : State) : (s.keepRaised).varSeen = (s.varSeen || s.raisedNow 2#3) := rfl
@[simp] theorem State.keepRaised_sinkSeen (s : State) : (s.keepRaised).sinkSeen = (s.sinkSeen || s.raisedNow 4#3) := rfl
@[simp] theorem State.keepRaised_cntSeek (s : State) : (s.keepRaised).cntSeek = s.cntSeek := rfl
@[simp] theorem State.keepRaised_cntCap (s : State) : (s.keepRaised).cntCap = s.cntCap := rfl
@[simp] theorem State.keepRaised_cntOk (s : State) : (s.keepRaised).cntOk = s.cntOk := rfl
@[simp] theorem State.keepRaised_cntFmt (s : State) : (s.keepRaised).cntFmt = s.cntFmt := rfl
@[simp] theorem State.keepRaised_cntVar (s : State) : (s.keepRaised).cntVar = s.cntVar := rfl
@[simp] theorem State.keepRaised_cntSinkFail (s : State) : (s.keepRaised).cntSinkFail = s.cntSinkFail := rfl
@[simp] theorem State.keepRaised_record (s : State) : (s.keepRaised).record = s.record := rfl
@[simp] theorem State.keepRaised_fb (s : State) : (s.keepRaised).fb = s.fb := rfl
@[simp] theorem State.keepRaised_fbAddr (s : State) : (s.keepRaised).fbAddr = s.fbAddr := rfl
@[simp] theorem State.keepRaised_out (s : State) : (s.keepRaised).out = s.out := rfl
@[simp] theorem State.keepRaised_edges (s : State) : (s.keepRaised).edges = s.edges := rfl
@[simp] theorem State.keepRaised_dec (s : State) : (s.keepRaised).dec = s.dec := rfl

/-! ### `State.beginDecode` -/

@[simp] theorem State.beginDecode_phase (s : State) : (s.beginDecode).phase = s.phase := rfl
@[simp] theorem State.beginDecode_sync (s : State) : (s.beginDecode).sync = s.sync := rfl
@[simp] theorem State.beginDecode_win (s : State) : (s.beginDecode).win = s.win := rfl
@[simp] theorem State.beginDecode_flen (s : State) : (s.beginDecode).flen = s.flen := rfl
@[simp] theorem State.beginDecode_rem (s : State) : (s.beginDecode).rem = s.rem := rfl
@[simp] theorem State.beginDecode_wp (s : State) : (s.beginDecode).wp = s.wp := rfl
@[simp] theorem State.beginDecode_fbLen (s : State) : (s.beginDecode).fbLen = s.fbLen := rfl
@[simp] theorem State.beginDecode_cancelPending (s : State) : (s.beginDecode).cancelPending = s.cancelPending := rfl
@[simp] theorem State.beginDecode_serrCode (s : State) : (s.beginDecode).serrCode = s.serrCode := rfl
@[simp] theorem State.beginDecode_err (s : State) : (s.beginDecode).err = s.err := rfl
@[simp] theorem State.beginDecode_fmtSeen (s : State) : (s.beginDecode).fmtSeen = s.fmtSeen := rfl
@[simp] theorem State.beginDecode_varSeen (s : State) : (s.beginDecode).varSeen = s.varSeen := rfl
@[simp] theorem State.beginDecode_sinkSeen (s : State) : (s.beginDecode).sinkSeen = s.sinkSeen := rfl
@[simp] theorem State.beginDecode_cntSeek (s : State) : (s.beginDecode).cntSeek = s.cntSeek := rfl
@[simp] theorem State.beginDecode_cntCap (s : State) : (s.beginDecode).cntCap = s.cntCap := rfl
@[simp] theorem State.beginDecode_cntOk (s : State) : (s.beginDecode).cntOk = s.cntOk := rfl
@[simp] theorem State.beginDecode_cntFmt (s : State) : (s.beginDecode).cntFmt = s.cntFmt := rfl
@[simp] theorem State.beginDecode_cntVar (s : State) : (s.beginDecode).cntVar = s.cntVar := rfl
@[simp] theorem State.beginDecode_cntSinkFail (s : State) : (s.beginDecode).cntSinkFail = s.cntSinkFail := rfl
@[simp] theorem State.beginDecode_record (s : State) : (s.beginDecode).record = s.record := rfl
@[simp] theorem State.beginDecode_fb (s : State) : (s.beginDecode).fb = s.fb := rfl
@[simp] theorem State.beginDecode_fbAddr (s : State) : (s.beginDecode).fbAddr = s.fbAddr := rfl
@[simp] theorem State.beginDecode_out (s : State) : (s.beginDecode).out = s.out := rfl
@[simp] theorem State.beginDecode_edges (s : State) : (s.beginDecode).edges = s.edges := rfl
@[simp] theorem State.beginDecode_dec (s : State) : (s.beginDecode).dec = some (Dec.start decodeOrder) := rfl

/-! ### `State.atEdge` -/

@[simp] theorem State.atEdge_phase (s : State) : (s.atEdge).phase = s.phase := rfl
@[simp] theorem State.atEdge_sync (s : State) : (s.atEdge).sync = s.sync := rfl
@[simp] theorem State.atEdge_win (s : State) : (s.atEdge).win = s.win := rfl
@[simp] theorem State.atEdge_flen (s : State) : (s.atEdge).flen = s.flen := rfl
@[simp] theorem State.atEdge_rem (s : State) : (s.atEdge).rem = s.rem := rfl
@[simp] theorem State.atEdge_wp (s : State) : (s.atEdge).wp = s.wp := rfl
@[simp] theorem State.atEdge_fbLen (s : State) : (s.atEdge).fbLen = s.fbLen := rfl
@[simp] theorem State.atEdge_cancelPending (s : State) : (s.atEdge).cancelPending = s.cancelPending := rfl
@[simp] theorem State.atEdge_serrCode (s : State) : (s.atEdge).serrCode = s.serrCode := rfl
@[simp] theorem State.atEdge_err (s : State) : (s.atEdge).err = s.err := rfl
@[simp] theorem State.atEdge_fmtSeen (s : State) : (s.atEdge).fmtSeen = s.fmtSeen := rfl
@[simp] theorem State.atEdge_varSeen (s : State) : (s.atEdge).varSeen = s.varSeen := rfl
@[simp] theorem State.atEdge_sinkSeen (s : State) : (s.atEdge).sinkSeen = s.sinkSeen := rfl
@[simp] theorem State.atEdge_cntSeek (s : State) : (s.atEdge).cntSeek = s.cntSeek := rfl
@[simp] theorem State.atEdge_cntCap (s : State) : (s.atEdge).cntCap = s.cntCap := rfl
@[simp] theorem State.atEdge_cntOk (s : State) : (s.atEdge).cntOk = s.cntOk := rfl
@[simp] theorem State.atEdge_cntFmt (s : State) : (s.atEdge).cntFmt = s.cntFmt := rfl
@[simp] theorem State.atEdge_cntVar (s : State) : (s.atEdge).cntVar = s.cntVar := rfl
@[simp] theorem State.atEdge_cntSinkFail (s : State) : (s.atEdge).cntSinkFail = s.cntSinkFail := rfl
@[simp] theorem State.atEdge_record (s : State) : (s.atEdge).record = s.record := rfl
@[simp] theorem State.atEdge_fb (s : State) : (s.atEdge).fb = s.fb := rfl
@[simp] theorem State.atEdge_fbAddr (s : State) : (s.atEdge).fbAddr = s.fbAddr := rfl
@[simp] theorem State.atEdge_out (s : State) : (s.atEdge).out = ⟨none, none, s.nextEdge.sbAddr.map s.sbData⟩ := rfl
@[simp] theorem State.atEdge_edges (s : State) : (s.atEdge).edges = s.edges.tail := rfl
@[simp] theorem State.atEdge_dec (s : State) : (s.atEdge).dec = s.dec := rfl

end Sys2Proof.Machine
end

