-- ==== Sys2Proof/Laws/Memory.lean ====
section
/-! SUPPORT. The frame buffer: reading back what was written, leaving the rest alone, and keeping the canonical form. -/

namespace Sys2Proof.Machine

/-- A byte written is the byte read there; every other index reads as before. -/
theorem Memory.read_write (m : Memory) (a b : Nat) (v : Byte) :
    Memory.read (Memory.write m a v) b = if a = b then some v else Memory.read m b := by
  induction m with
  | nil => simp [Memory.write, Memory.read]
  | cons c rest ih =>
    obtain ⟨k, x⟩ := c
    simp only [Memory.write]
    split
    · simp [Memory.read]
    · split
      · subst_vars; simp only [Memory.read]; split <;> simp_all
      · simp only [Memory.read, ih]; grind

@[simp] theorem Memory.read_write_self (m : Memory) (a : Nat) (v : Byte) :
    Memory.read (Memory.write m a v) a = some v := by simp [Memory.read_write]

theorem Memory.read_write_of_ne {a b : Nat} (h : a ≠ b) (m : Memory) (v : Byte) :
    Memory.read (Memory.write m a v) b = Memory.read m b := by simp [Memory.read_write, h]

/-- `fbRead` after a write to an index the buffer has. -/
theorem fbRead_write {a : Nat} (ha : a < 2049) (m : Memory) (b : Nat) (v : Byte) :
    fbRead (Memory.write m a v) b = if a = b then v else fbRead m b := by
  simp only [fbRead, Memory.read_write]
  grind

/-- Above index 2048 the buffer reads 0 (20_memory.md R39). -/
theorem fbRead_of_le {a : Nat} (h : Config.fbBytes ≤ a) (m : Memory) : fbRead m a = 0x00#8 := by
  simp only [fbRead, Nat.not_lt.mpr h, if_false]

theorem Memory.wfFrom_mono {lo lo' : Nat} (h : lo' ≤ lo) (m : Memory) (hm : Memory.wfFrom lo m = true) :
    Memory.wfFrom lo' m = true := by
  cases m with
  | nil => rfl
  | cons c rest =>
    simp only [Memory.wfFrom, Bool.and_eq_true, decide_eq_true_eq] at hm ⊢
    exact ⟨⟨by omega, hm.1.2⟩, hm.2⟩

theorem Memory.wfFrom_write {lo a : Nat} (hlo : lo ≤ a) (ha : a < Config.fbBytes) (v : Byte) (m : Memory)
    (hm : Memory.wfFrom lo m = true) : Memory.wfFrom lo (Memory.write m a v) = true := by
  induction m generalizing lo with
  | nil => simp [Memory.write, Memory.wfFrom, hlo]; exact ha
  | cons c rest ih =>
    obtain ⟨k, x⟩ := c
    simp only [Memory.wfFrom, Bool.and_eq_true, decide_eq_true_eq] at hm
    obtain ⟨⟨h1, h2⟩, h3⟩ := hm
    simp only [Memory.write]
    split
    · simp only [Memory.wfFrom, Bool.and_eq_true, decide_eq_true_eq]; exact ⟨⟨hlo, ha⟩, ⟨by omega, h2⟩, h3⟩
    · split
      · subst_vars; simp only [Memory.wfFrom, Bool.and_eq_true, decide_eq_true_eq]; exact ⟨⟨h1, ha⟩, h3⟩
      · simp only [Memory.wfFrom, Bool.and_eq_true, decide_eq_true_eq]
        exact ⟨⟨h1, h2⟩, ih (by omega) h3⟩

/-- A write to an index the buffer has keeps the canonical form. -/
theorem Memory.wf_write {a : Nat} (ha : a < Config.fbBytes) (v : Byte) (m : Memory) (hm : Memory.wf m = true) :
    Memory.wf (Memory.write m a v) = true :=
  Memory.wfFrom_write (Nat.zero_le a) ha v m hm

/-- Writing bytes from an index on keeps the canonical form, where the buffer has them all. -/
theorem Memory.wf_writeList (bs : List Byte) (a : Nat) (m : Memory) (ha : a + bs.length ≤ Config.fbBytes)
    (hm : Memory.wf m = true) : Memory.wf (Memory.writeList m a bs) = true := by
  induction bs generalizing a m with
  | nil => exact hm
  | cons b rest ih =>
    simp only [List.length_cons] at ha
    exact ih (a + 1) _ (by omega) (Memory.wf_write (by omega) b m hm)

/-- The buffer right after reset has the canonical form: it lists nothing. -/
theorem reset_wf : Memory.wf State.reset.fb = true := rfl

end Sys2Proof.Machine
end

