-- ==== Sys2Proof/Laws/Ops.lean ====
section
/-! SUPPORT. Each shared operation, once: all it can answer. -/

namespace Sys2Proof.Machine

theorem andThen_next {r : Result} {f : State → Result} {t : State} :
    andThen r f = .next t ↔ ∃ u, r = .next u ∧ f u = .next t := by
  cases r <;> simp [andThen]

@[simp] theorem andThen_of_next (u : State) (f : State → Result) : andThen (.next u) f = f u := rfl

@[simp] theorem andThen_of_fault (e : Fault) (f : State → Result) : andThen (.fault e) f = .fault e := rfl

@[simp] theorem andThen_of_refused (e : Refusal) (f : State → Result) : andThen (.refused e) f = .refused e := rfl

/-- A store of one byte goes to an index the buffer has, and changes nothing else. -/
theorem storeByte_ok {s t : State} {i : FbIndex} {v : Byte} (h : s.storeByte i v = .ok t) :
    i.toNat < Config.fbBytes ∧ t = { s with fb := Memory.write s.fb i.toNat v } := by
  unfold State.storeByte at h
  split at h
  · exact ⟨‹_›, by simpa using h.symm⟩
  · simp at h

theorem storeByte_error {s : State} {i : FbIndex} {v : Byte} {e : Fault} (h : s.storeByte i v = .error e) :
    Config.fbBytes ≤ i.toNat ∧ e = .fbOutOfRange i := by
  unfold State.storeByte at h
  split at h
  · simp at h
  · exact ⟨by omega, by simpa using h.symm⟩

/-- `need` passes exactly when the bytes lie inside the frame. -/
theorem need_ok {n k : Nat} {f : Field} {d : Dec} {u : Unit} : need n k f d = .ok u ↔ d.cur + k ≤ n := by
  unfold need
  split <;> simp <;> omega

theorem need_error {n k : Nat} {f : Field} {d : Dec} {e : Err} :
    need n k f d = .error e ↔ n < d.cur + k ∧ e = .format .overrun f d.cur 0x00#8 := by
  unfold need
  split <;> simp_all [eq_comm]

/-- `expect` passes exactly when the byte is inside the frame and is the expected one; it moves the cursor by one. -/
theorem expect_ok {n : Nat} {v b : Byte} {f : Field} {d d1 : Dec} :
    expect n v b f d = .ok d1 ↔ d.cur + 1 ≤ n ∧ b = v ∧ d1 = d.advance 1 := by
  unfold expect need
  grind

/-- `expect` reports the byte past the frame before it compares (60_exceptions.md R133 item 2). -/
theorem expect_error {n : Nat} {v b : Byte} {f : Field} {d : Dec} {e : Err} :
    expect n v b f d = .error e ↔
      (n < d.cur + 1 ∧ e = .format .overrun f d.cur 0x00#8) ∨
      (d.cur + 1 ≤ n ∧ b ≠ v ∧ e = .format .tagMismatch f d.cur b) := by
  unfold expect need
  grind

/-- `readField` passes exactly when the bytes lie inside the frame; it writes the field, marks it and moves the cursor. -/
theorem readField_ok {n k : Nat} {f : Field} {put : Rec → Rec} {d d1 : Dec} :
    readField n k f put d = .ok d1 ↔
      d.cur + k ≤ n ∧ d1 = { d with cur := d.cur + k, record := (put d.record).mark f } := by
  unfold readField need Dec.advance
  grind

theorem readField_error {n k : Nat} {f : Field} {put : Rec → Rec} {d : Dec} {e : Err} :
    readField n k f put d = .error e ↔ n < d.cur + k ∧ e = .format .overrun f d.cur 0x00#8 := by
  unfold readField need
  grind

/-- `readTimestamp` passes exactly when the tag is right and all 13 bytes lie inside the frame. -/
theorem readTimestamp_ok {n : Nat} {tag : Byte} {f : Field} {put : Rec → Rec} {d d1 : Dec} :
    readTimestamp n tag f put d = .ok d1 ↔
      d.cur + 13 ≤ n ∧ tag = Config.tagOctets ∧ d1 = { d with cur := d.cur + 13, record := (put d.record).mark f } := by
  unfold readTimestamp
  constructor
  · intro h
    split at h
    · simp at h
    · rename_i d2 he
      obtain ⟨h1, h2, rfl⟩ := expect_ok.mp he
      obtain ⟨h3, rfl⟩ := readField_ok.mp h
      exact ⟨h3, h2, rfl⟩
  · rintro ⟨h1, h2, rfl⟩
    rw [expect_ok.mpr ⟨by omega, h2, rfl⟩]
    exact readField_ok.mpr ⟨h1, rfl⟩

/-- A wire row inside a decode step answers a next state: its locals, or its error taken. Outside one nothing happens. -/
theorem runDec_cases (s : State) (f : Dec → Except Err Dec) :
    (s.dec = none ∧ s.runDec f = .next s) ∨
    (∃ d d1, s.dec = some d ∧ f d = .ok d1 ∧ s.runDec f = .next { s with dec := some d1 }) ∨
    (∃ d e, s.dec = some d ∧ f d = .error e ∧ s.runDec f = .next (s.frameError e)) := by
  unfold State.runDec
  cases hd : s.dec with
  | none => exact .inl ⟨rfl, rfl⟩
  | some d =>
    cases hf : f d with
    | ok d1 => exact .inr (.inl ⟨d, d1, rfl, hf, by simp [hf]⟩)
    | error e => exact .inr (.inr ⟨d, e, rfl, hf, by simp [hf]⟩)

theorem runDec_some_ok {s : State} {f : Dec → Except Err Dec} {d d1 : Dec} (hd : s.dec = some d) (hf : f d = .ok d1) :
    s.runDec f = .next { s with dec := some d1 } := by simp [State.runDec, hd, hf]

theorem runDec_some_error {s : State} {f : Dec → Except Err Dec} {d : Dec} {e : Err} (hd : s.dec = some d)
    (hf : f d = .error e) : s.runDec f = .next (s.frameError e) := by simp [State.runDec, hd, hf]

/-- Items read one after another pass exactly when each does. -/
theorem readItems_cons_ok {s : State} {p : Place} {rest : List Place} {d d2 : Dec} :
    readItems s (p :: rest) d = .ok d2 ↔
      ∃ d1, readItem s.fbLen.toNat (s.wireInstr d p) d = .ok d1 ∧ readItems s rest d1 = .ok d2 := by
  simp only [readItems]
  split <;> simp_all

theorem readPlaces_cons_ok {s : State} {p : Place} {rest : List Place} {d d2 : Dec} :
    readPlaces s (p :: rest) d = .ok d2 ↔
      ∃ d1, readWire s (s.wireInstr d p) d = .ok d1 ∧ readPlaces s rest d1 = .ok d2 := by
  simp only [readPlaces]
  split <;> simp_all

/-- A decode answers a record exactly when all its places read. -/
theorem decodeFrame_ok {s : State} {r : Rec} :
    s.decodeFrame = .ok r ↔ ∃ d, readPlaces s decodeOrder (Dec.start []) = .ok d ∧ r = d.record := by
  unfold State.decodeFrame
  split <;> simp [*, eq_comm]

theorem decodeFrame_error {s : State} {e : Err} :
    s.decodeFrame = .error e ↔ readPlaces s decodeOrder (Dec.start []) = .error e := by
  unfold State.decodeFrame
  split <;> simp [*]

/-- A decode looks at the frame buffer and its length alone. -/
theorem wireInstr_congr {s t : State} (hf : s.fb = t.fb) (hn : s.fbLen = t.fbLen) (d : Dec) (p : Place) :
    s.wireInstr d p = t.wireInstr d p := by
  cases p <;> simp only [State.wireInstr, State.window, State.frameByte, hf, hn]

theorem readItems_congr {s t : State} (hf : s.fb = t.fb) (hn : s.fbLen = t.fbLen) (ps : List Place) (d : Dec) :
    readItems s ps d = readItems t ps d := by
  induction ps generalizing d with
  | nil => rfl
  | cons p rest ih => simp only [readItems, wireInstr_congr hf hn, hn, ih]

theorem readWire_congr {s t : State} (hf : s.fb = t.fb) (hn : s.fbLen = t.fbLen) (i : Instr) (d : Dec) :
    readWire s i d = readWire t i d := by
  unfold readWire
  cases i <;> simp only [readVariant1, readVariant9, readVariant13, readVariant14, readVariant18, readVariant,
    readFcsEndTag, State.frameByte, readItems_congr hf hn, hf, hn]

theorem decodeFrame_congr {s t : State} (hf : s.fb = t.fb) (hn : s.fbLen = t.fbLen) : s.decodeFrame = t.decodeFrame := by
  have h (ps : List Place) (d : Dec) : readPlaces s ps d = readPlaces t ps d := by
    induction ps generalizing d with
    | nil => rfl
    | cons p rest ih => simp only [readPlaces, wireInstr_congr hf hn, readWire_congr hf hn, ih]
  simp only [State.decodeFrame, h]

@[simp] theorem State.hostReply_decodeFrame (v : Word32) (s : State) : (s.hostReply v).decodeFrame = s.decodeFrame :=
  decodeFrame_congr rfl rfl

@[simp] theorem State.atEdge_decodeFrame (s : State) : s.atEdge.decodeFrame = s.decodeFrame := decodeFrame_congr rfl rfl

/-- What the block runs at an edge: at most one row, chosen by the phase (00_scope.md R6). -/
theorem blockInstr_some {e : Edge} {s : State} {i : Instr} (h : blockInstr e s = .ok (some i)) :
    (s.phase = .sync ∧ s.cancelPending = true ∧ e.internal = true ∧ i = .cancelTake) ∨
    (s.phase = .sync ∧ s.cancelPending = false ∧ ∃ t, e.token = some t ∧ decodeToken s.sync s.win s.rem t = .ok i) ∨
    (s.phase = .decode ∧ e.internal = true ∧ i = .decodeStep) ∨
    (s.phase = .emit ∧ decodeSink (1#1 ++ e.sink) = .ok i) := by
  unfold blockInstr at h
  grind

/-- The block's step stops only on a byte in BODY with no byte due. -/
theorem blockInstr_error {e : Edge} {s : State} {f : Fault} (h : blockInstr e s = .error f) :
    f = .bodyNothingDue ∧ s.phase = .sync ∧ s.cancelPending = false ∧
      ∃ t r, e.token = some t ∧ decodeToken s.sync s.win s.rem t = .error r := by
  unfold blockInstr at h
  grind

end Sys2Proof.Machine
end

