-- ==== Sys2Proof/Laws/PerInstr.lean ====
section
/-! SUPPORT. The family EncodeSize: every well-formed instruction's words have the size that opcode_table.json gives its row. -/

namespace Sys2Proof.Laws.EncodeSize

open Sys2Proof

/-- The bytes that an instruction's word takes: the bits opcode_table.json gives its row, in whole bytes. A text item's content,
whose size its length byte gives, is counted with it (30_encoding.md R58, R67). -/
def wordSize : Instr → Nat
  | .seekByte _ | .seekStart _ | .lenByte _ | .bodyByte _ | .bodyLast _ | .streamEos _ | .streamIoerr _ => 2
  | .cancelTake | .decodeStep => 0
  | .startTag _ | .destAddr _ | .control _ => 1
  | .frameInfo _ _ _ | .srcAddr _ | .hcs _ | .count _ _ => 2
  | .variant1 | .variant9 | .variant13 | .variant14 | .variant18 | .variantUnsupported _ => 2
  | .metaBlock _ _ _ _ => 8
  | .msgTs _ _ | .itemETs _ _ => 13
  | .itemText _ _ k _ => 2 + k.toNat
  | .itemU32 _ _ _ | .itemS32 _ _ _ => 5
  | .fcsEndTag _ _ => 3
  | .sinkAck | .sinkFail => 1
  | .hostSrst _ _ | .hostCancel _ _ | .hostW1cStatus _ _ | .hostWriteFbAddr _ _ | .hostWriteIgnored _ _ => 6
  | .hostReadCtrl _ _ | .hostReadStatus _ _ | .hostReadFbLen _ _ | .hostReadFbAddr _ _ | .hostReadFbData _ _ => 6
  | .hostReadErrInfo _ _ | .hostReadErrOffset _ _ | .hostReadCntSeek _ _ | .hostReadCntCap _ _ => 6
  | .hostReadCntOk _ _ | .hostReadCntFmt _ _ | .hostReadCntVar _ _ | .hostReadCntSinkFail _ _ => 6
  | .hostReadUnmapped _ _ => 6

/-- A well-formed instruction's words are as many bytes as its row takes. -/
def Statement (i : Instr) : Prop := i.wf = true → (encode i).length = wordSize i

theorem seekByte (b : Byte) : Statement (.seekByte b) := fun _ => rfl

theorem seekStart (b : Byte) : Statement (.seekStart b) := fun _ => rfl

theorem lenByte (b : Byte) : Statement (.lenByte b) := fun _ => rfl

theorem bodyByte (b : Byte) : Statement (.bodyByte b) := fun _ => rfl

theorem bodyLast (b : Byte) : Statement (.bodyLast b) := fun _ => rfl

theorem streamEos (ignored : Byte) : Statement (.streamEos ignored) := fun _ => rfl

theorem streamIoerr (ignored : BitVec 9) : Statement (.streamIoerr ignored) := fun _ => rfl

theorem cancelTake : Statement .cancelTake := fun _ => rfl

theorem startTag (tag : Byte) : Statement (.startTag tag) := fun _ => rfl

theorem frameInfo (format : BitVec 4) (sep : BitVec 1) (len : BitVec 11) : Statement (.frameInfo format sep len) := fun _ => rfl

theorem destAddr (a : Byte) : Statement (.destAddr a) := fun _ => rfl

theorem srcAddr (a : BitVec 16) : Statement (.srcAddr a) := fun _ => rfl

theorem control (c : Byte) : Statement (.control c) := fun _ => rfl

theorem hcs (h : BitVec 16) : Statement (.hcs h) := fun _ => rfl

theorem metaBlock (lsapDst lsapSrc llc : Byte) (reserved : BitVec 40) : Statement (.metaBlock lsapDst lsapSrc llc reserved) := fun _ => rfl

theorem msgTs (tag : Byte) (t : Timestamp) : Statement (.msgTs tag t) := fun _ => rfl

theorem count (tag n : Byte) : Statement (.count tag n) := fun _ => rfl

theorem variant1 : Statement .variant1 := fun _ => rfl

theorem variant9 : Statement .variant9 := fun _ => rfl

theorem variant13 : Statement .variant13 := fun _ => rfl

theorem variant14 : Statement .variant14 := fun _ => rfl

theorem variant18 : Statement .variant18 := fun _ => rfl

theorem variantUnsupported (n : Byte) : Statement (.variantUnsupported n) := fun _ => rfl

theorem itemText (f : TextField) (tag k : Byte) (content : List Byte) : Statement (.itemText f tag k content) := by
  intro h
  simp only [Instr.wf, Bool.and_eq_true, beq_iff_eq] at h
  simp only [encode, List.length_cons, wordSize, h.2]
  omega

theorem itemU32 (f : U32Field) (tag : Byte) (v : Word32) : Statement (.itemU32 f tag v) := fun _ => rfl

theorem itemS32 (f : S32Field) (tag : Byte) (v : Word32) : Statement (.itemS32 f tag v) := fun _ => rfl

theorem itemETs (tag : Byte) (t : Timestamp) : Statement (.itemETs tag t) := fun _ => rfl

theorem fcsEndTag (fcs : BitVec 16) (tag : Byte) : Statement (.fcsEndTag fcs tag) := fun _ => rfl

theorem decodeStep : Statement .decodeStep := fun _ => rfl

theorem sinkAck : Statement .sinkAck := fun _ => rfl

theorem sinkFail : Statement .sinkFail := fun _ => rfl

theorem hostSrst (lo : BitVec 2) (wdata : Word32) : Statement (.hostSrst lo wdata) := fun _ => rfl

theorem hostCancel (lo : BitVec 2) (wdata : Word32) : Statement (.hostCancel lo wdata) := fun _ => rfl

theorem hostW1cStatus (lo : BitVec 2) (wdata : Word32) : Statement (.hostW1cStatus lo wdata) := fun _ => rfl

theorem hostWriteFbAddr (lo : BitVec 2) (wdata : Word32) : Statement (.hostWriteFbAddr lo wdata) := fun _ => rfl

theorem hostWriteIgnored (addr : Byte) (wdata : Word32) : Statement (.hostWriteIgnored addr wdata) := fun _ => rfl

theorem hostReadCtrl (lo : BitVec 2) (wdata : Word32) : Statement (.hostReadCtrl lo wdata) := fun _ => rfl

theorem hostReadStatus (lo : BitVec 2) (wdata : Word32) : Statement (.hostReadStatus lo wdata) := fun _ => rfl

theorem hostReadFbLen (lo : BitVec 2) (wdata : Word32) : Statement (.hostReadFbLen lo wdata) := fun _ => rfl

theorem hostReadFbAddr (lo : BitVec 2) (wdata : Word32) : Statement (.hostReadFbAddr lo wdata) := fun _ => rfl

theorem hostReadFbData (lo : BitVec 2) (wdata : Word32) : Statement (.hostReadFbData lo wdata) := fun _ => rfl

theorem hostReadErrInfo (lo : BitVec 2) (wdata : Word32) : Statement (.hostReadErrInfo lo wdata) := fun _ => rfl

theorem hostReadErrOffset (lo : BitVec 2) (wdata : Word32) : Statement (.hostReadErrOffset lo wdata) := fun _ => rfl

theorem hostReadCntSeek (lo : BitVec 2) (wdata : Word32) : Statement (.hostReadCntSeek lo wdata) := fun _ => rfl

theorem hostReadCntCap (lo : BitVec 2) (wdata : Word32) : Statement (.hostReadCntCap lo wdata) := fun _ => rfl

theorem hostReadCntOk (lo : BitVec 2) (wdata : Word32) : Statement (.hostReadCntOk lo wdata) := fun _ => rfl

theorem hostReadCntFmt (lo : BitVec 2) (wdata : Word32) : Statement (.hostReadCntFmt lo wdata) := fun _ => rfl

theorem hostReadCntVar (lo : BitVec 2) (wdata : Word32) : Statement (.hostReadCntVar lo wdata) := fun _ => rfl

theorem hostReadCntSinkFail (lo : BitVec 2) (wdata : Word32) : Statement (.hostReadCntSinkFail lo wdata) := fun _ => rfl

theorem hostReadUnmapped (addr : Byte) (wdata : Word32) : Statement (.hostReadUnmapped addr wdata) := fun _ => rfl

end Sys2Proof.Laws.EncodeSize
end

