-- ==== Sys2Proof/Laws/Step.lean ====
section
/-! SUPPORT. What a step can do, said once: the block's move at an edge, the host's write, and the edge as a whole. -/

namespace Sys2Proof.Machine

/-- All that the block's step at an edge can do. -/
inductive BlockMove (e : Edge) (s : State) : State → Prop where
  | wait
      (h : (s.phase = .sync ∧ s.cancelPending = true ∧ e.internal = false) ∨ (s.inReady = true ∧ e.token = none) ∨
        (s.phase = .decode ∧ e.internal = false) ∨ (s.phase = .emit ∧ e.sink.getLsbD 1 = false) ∨ s.phase = .halted) :
      BlockMove e s s
  | seekByte (b : Byte) (hr : s.inReady = true) (ht : e.token = some (0b00#2 ++ b)) (hs : s.sync = .seek)
      (hc : startCandidate s.win b = false) :
      BlockMove e s { s with cntSeek := s.cntSeek + 1#32, win := b }
  | seekStart (b : Byte) (hr : s.inReady = true) (ht : e.token = some (0b00#2 ++ b)) (hs : s.sync = .seek)
      (hc : startCandidate s.win b = true) :
      BlockMove e s { s with
        cntSeek := s.cntSeek + 1#32, win := b, fb := Memory.write (Memory.write s.fb 0 Config.startTag) 1 b
        wp := 2#12, sync := .len }
  | lenBody (b : Byte) (hr : s.inReady = true) (ht : e.token = some (0b00#2 ++ b)) (hs : s.sync = .len)
      (hd : bytesDue (frameLength (fbRead s.fb 1) b) ≠ 0#12) :
      BlockMove e s { s with
        fb := Memory.write s.fb 2 b, flen := frameLength (fbRead s.fb 1) b, wp := 3#12
        rem := bytesDue (frameLength (fbRead s.fb 1) b), sync := .body }
  | lenDone (b : Byte) (hr : s.inReady = true) (ht : e.token = some (0b00#2 ++ b)) (hs : s.sync = .len)
      (hd : bytesDue (frameLength (fbRead s.fb 1) b) = 0#12) :
      BlockMove e s (State.captureComplete 3#12 { s with
        fb := Memory.write s.fb 2 b, flen := frameLength (fbRead s.fb 1) b, wp := 3#12 })
  | bodyByte (b : Byte) (hr : s.inReady = true) (ht : e.token = some (0b00#2 ++ b)) (hs : s.sync = .body)
      (hm : 1 < s.rem.toNat) (hw : s.wp.toNat < Config.fbBytes) :
      BlockMove e s { s with fb := Memory.write s.fb s.wp.toNat b, wp := s.wp + 1#12, rem := s.rem - 1#12 }
  | bodyLast (b : Byte) (hr : s.inReady = true) (ht : e.token = some (0b00#2 ++ b)) (hs : s.sync = .body)
      (hm : s.rem = 1#12) (hw : s.wp.toNat < Config.fbBytes) :
      BlockMove e s (State.captureComplete (s.wp + 1#12) { s with fb := Memory.write s.fb s.wp.toNat b, rem := 0#12 })
  | eos (b : Byte) (hr : s.inReady = true) (ht : e.token = some (0b01#2 ++ b)) : BlockMove e s (s.streamError .eos)
  | ioerr (x : BitVec 9) (hr : s.inReady = true) (ht : e.token = some (0b1#1 ++ x)) : BlockMove e s (s.streamError .io)
  | cancelTake (hp : s.phase = .sync) (hc : s.cancelPending = true) (hi : e.internal = true) :
      BlockMove e s (s.streamError .cancelled)
  | decodeOk (r : Rec) (hp : s.phase = .decode) (hi : e.internal = true) (hd : s.decodeFrame = .ok r) :
      BlockMove e s (s.commit r)
  | decodeErr (x : Err) (hp : s.phase = .decode) (hi : e.internal = true) (hd : s.decodeFrame = .error x) :
      BlockMove e s (s.frameError x)
  | sinkAck (hp : s.phase = .emit) (hk : e.sink = 0b10#2) : BlockMove e s { s with phase := .sync }
  | sinkFail (hp : s.phase = .emit) (hk : e.sink = 0b11#2) :
      BlockMove e s { s.raise .sink with cntSinkFail := s.cntSinkFail + 1#32, phase := .sync }

theorem inReady_iff (s : State) : s.inReady = true ↔ s.phase = .sync ∧ s.cancelPending = false := by
  simp [State.inReady]

/-- A handshake row, by the sink's two pins. -/
theorem decodeSink_pins (k : BitVec 2) :
    decodeSink (1#1 ++ k) =
      if k = 0b10#2 then .ok .sinkAck else if k = 0b11#2 then .ok .sinkFail else .error .noHandshake := by
  revert k; decide

/-- The row a ready block runs, by the token offered. -/
theorem blockStep_ready {e : Edge} {s t : State} {k : Token} (hr : s.inReady = true) (ht : e.token = some k)
    (h : blockStep e s = .next t) : BlockMove e s t := by
  obtain ⟨hp, hc⟩ := (inReady_iff s).mp hr
  simp only [blockStep, blockInstr, hp, hc, ht, Bool.false_eq_true, if_false] at h
  cases h9 : k.getLsbD 9 with
  | true =>
    have hk := token_of_err h9
    rw [hk, decodeToken_ioerr] at h
    simp only [exec, execStreamIoerr, hr, if_true, Host.Outcome.next.injEq] at h
    subst h
    exact .ioerr _ hr (ht.trans (congrArg some hk))
  | false =>
    cases h8 : k.getLsbD 8 with
    | true =>
      have hk := token_of_eos h9 h8
      rw [hk, decodeToken_eos] at h
      simp only [exec, execStreamEos, hr, if_true, Host.Outcome.next.injEq] at h
      subst h
      exact .eos _ hr (ht.trans (congrArg some hk))
    | false =>
      have hk := token_of_byte h9 h8
      rw [hk] at ht
      rw [hk, decodeToken_byte] at h
      generalize k.extractLsb' 0 8 = b at h ht
      cases hs : s.sync with
      | seek =>
        cases hst : startCandidate s.win b with
        | true =>
          simp only [hs, hst, if_true, exec, execSeekStart, hr, and_self, Host.Outcome.next.injEq] at h
          subst h
          exact .seekStart b hr ht hs hst
        | false =>
          simp only [hs, hst, Bool.false_eq_true, if_false, exec, execSeekByte, hr, and_self, if_true,
            Host.Outcome.next.injEq] at h
          subst h
          simpa only [hs] using BlockMove.seekByte b hr ht hs hst
      | len =>
        simp only [hs, exec, execLenByte, hr, and_self, if_true] at h
        split at h
        · cases h; exact .lenDone b hr ht hs ‹_›
        · cases h; exact .lenBody b hr ht hs ‹_›
      | body =>
        simp only [hs] at h
        by_cases h0 : s.rem = 0#12
        · simp [h0] at h
        · by_cases h1 : s.rem = 1#12
          · simp only [h1, hs, exec, execBodyLast, hr, and_self, if_true, State.storeByte] at h
            by_cases hw : s.wp.toNat < Config.fbBytes
            · simp only [hw, if_true] at h
              cases h
              exact .bodyLast b hr ht hs h1 hw
            · simp [hw] at h
          · have hm : 1 < s.rem.toNat := by
              have : s.rem.toNat ≠ 0 := fun hz => h0 (BitVec.eq_of_toNat_eq hz)
              have : s.rem.toNat ≠ 1 := fun hz => h1 (BitVec.eq_of_toNat_eq hz)
              omega
            simp only [h0, h1, hm, hs, exec, execBodyByte, hr, and_self, if_true, if_false, State.storeByte] at h
            by_cases hw : s.wp.toNat < Config.fbBytes
            · simp only [hw, if_true] at h
              cases h
              simpa only [hs] using BlockMove.bodyByte b hr ht hs hm hw
            · simp [hw] at h

/-- The block's step at an edge does one of these, or stops. -/
theorem blockStep_move {e : Edge} {s t : State} (h : blockStep e s = .next t) : BlockMove e s t := by
  cases hp : s.phase with
  | sync =>
    cases hc : s.cancelPending with
    | true =>
      cases hi : e.internal with
      | true =>
        simp only [blockStep, blockInstr, hp, hc, hi, if_true, exec, execCancelTake, and_self, Host.Outcome.next.injEq] at h
        subst h
        exact .cancelTake hp hc hi
      | false =>
        simp only [blockStep, blockInstr, hp, hc, hi, if_true, Bool.false_eq_true, if_false, Host.Outcome.next.injEq] at h
        subst h
        exact .wait (.inl ⟨hp, hc, hi⟩)
    | false =>
      have hr : s.inReady = true := (inReady_iff s).mpr ⟨hp, hc⟩
      cases ht : e.token with
      | some k => exact blockStep_ready hr ht h
      | none =>
        simp only [blockStep, blockInstr, hp, hc, ht, Bool.false_eq_true, if_false, Host.Outcome.next.injEq] at h
        subst h
        exact .wait (.inr (.inl ⟨hr, ht⟩))
  | decode =>
    cases hi : e.internal with
    | true =>
      simp only [blockStep, blockInstr, hp, hi, if_true, exec, execDecodeStep] at h
      split at h
      · cases h; exact .decodeOk _ hp hi ‹_›
      · cases h; exact .decodeErr _ hp hi ‹_›
    | false =>
      simp only [blockStep, blockInstr, hp, hi, Bool.false_eq_true, if_false, Host.Outcome.next.injEq] at h
      subst h
      exact .wait (.inr (.inr (.inl ⟨hp, hi⟩)))
  | emit =>
    simp only [blockStep, blockInstr, hp, decodeSink_pins] at h
    by_cases h2 : e.sink = 0b10#2
    · simp only [h2, if_true, exec, execSinkAck, hp, Host.Outcome.next.injEq] at h
      subst h
      exact .sinkAck hp h2
    · by_cases h3 : e.sink = 0b11#2
      · simp only [h3, if_true, exec, execSinkFail, hp] at h
        cases h
        exact .sinkFail hp h3
      · simp only [h2, h3, if_false, Host.Outcome.next.injEq] at h
        subst h
        refine .wait (.inr (.inr (.inr (.inl ⟨hp, ?_⟩))))
        generalize e.sink = k at h2 h3
        revert k; decide
  | halted =>
    simp only [blockStep, blockInstr, hp, Host.Outcome.next.injEq] at h
    subst h
    exact .wait (.inr (.inr (.inr (.inr hp))))

/-- All that a host write other than CTRL.SRST can do. -/
inductive HostWrite : Instr → State → State → Prop where
  | cancel (lo : BitVec 2) (w : Word32) (u : State) (h : u.phase ≠ .halted) :
      HostWrite (.hostCancel lo w) u { u with cancelPending := true }
  | cancelHalted (lo : BitVec 2) (w : Word32) (u : State) (h : u.phase = .halted) : HostWrite (.hostCancel lo w) u u
  | w1c (lo : BitVec 2) (w : Word32) (u : State) : HostWrite (.hostW1cStatus lo w) u (u.clearFlags w)
  | fbAddr (lo : BitVec 2) (w : Word32) (u : State) :
      HostWrite (.hostWriteFbAddr lo w) u { u with fbAddr := w.extractLsb' 0 12 }
  | ignored (addr : Byte) (w : Word32) (u : State) : HostWrite (.hostWriteIgnored addr w) u u

/-- What holds of both rows an address may select holds of the one it does. -/
theorem row_of_ite {P : Instr → Prop} {c : Prop} [Decidable c] {i j : Instr} (hi : P i) (hj : P j) :
    P (if c then i else j) := by
  split <;> assumption

/-- A host read answers on `host_rdata` and does nothing else. -/
theorem exec_decodeHostRead (addr : Byte) (w : Word32) (s : State) :
    ∃ v, exec (decodeHostRead addr w) s = .next (s.hostReply v) := by
  unfold decodeHostRead
  iterate 13 refine row_of_ite (P := fun i => ∃ v, exec i s = .next (s.hostReply v)) ⟨_, rfl⟩ ?_
  exact ⟨_, rfl⟩

theorem exec_hostTurn_read {e : Edge} {i : Instr} (h : hostTurn e = .read i) (s : State) :
    ∃ v, exec i s = .next (s.hostReply v) := by
  unfold hostTurn at h
  split at h
  · cases h
  · split at h
    · split at h <;> cases h
    · rename_i w hw
      cases h
      simp only [decodeHost, hw, Bool.false_eq_true, if_false]
      exact exec_decodeHostRead _ _ s

/-- A host write goes on, and does one of these. -/
theorem exec_hostTurn_write {e : Edge} {i : Instr} (h : hostTurn e = .write i) (u : State) :
    ∃ t, exec i u = .next t ∧ HostWrite i u t := by
  unfold hostTurn at h
  split at h
  · cases h
  · split at h
    · rename_i w hw
      simp only [decodeHost, hw, if_true, decodeHostWrite] at h
      split_ifs at h <;> cases h
      · simp only [exec, execHostCancel]
        split
        · exact ⟨_, rfl, .cancelHalted _ _ _ ‹_›⟩
        · exact ⟨_, rfl, .cancel _ _ _ ‹_›⟩
      all_goals first
        | exact ⟨_, rfl, .w1c _ _ _⟩
        | exact ⟨_, rfl, .fbAddr _ _ _⟩
        | exact ⟨_, rfl, .ignored _ _ _⟩
    · cases h

/-- A reset by the host is the row HOST_SRST. -/
theorem hostTurn_srst {e : Edge} {i : Instr} (h : hostTurn e = .srst i) : ∃ lo w, i = .hostSrst lo w := by
  unfold hostTurn at h
  split at h
  · cases h
  · split at h
    · split at h <;> cases h
      exact ⟨_, _, rfl⟩
    · cases h

theorem resets_false_iff (e : Edge) : e.resets = false ↔ e.rst = false ∧ ∀ i, hostTurn e ≠ .srst i := by
  unfold Edge.resets
  cases hostTurn e <;> simp

/-- All that a step between decode steps can do. -/
inductive StepMove (s : State) : State → Prop where
  | reset (h : s.nextEdge.resets = true) : StepMove s s.atEdge.softReset
  | idle (u : State) (h : s.nextEdge.resets = false) (hh : hostTurn s.nextEdge = .idle)
      (m : BlockMove s.nextEdge s.atEdge u) : StepMove s u
  | read (i : Instr) (v : Word32) (u : State) (h : s.nextEdge.resets = false) (hh : hostTurn s.nextEdge = .read i)
      (m : BlockMove s.nextEdge (s.atEdge.hostReply v) u) : StepMove s u
  | write (i : Instr) (u t : State) (h : s.nextEdge.resets = false) (hh : hostTurn s.nextEdge = .write i)
      (m : BlockMove s.nextEdge s.atEdge u) (w : HostWrite i u t) : StepMove s t.keepRaised

/-- A step between decode steps does one of these, or stops. -/
theorem step_move {s t : State} (hd : s.dec = none) (h : step s = .next t) : StepMove s t := by
  simp only [step, hd, edgeStep] at h
  split at h
  · cases h
    exact .reset (by simp [Edge.resets, *])
  · rename_i hr
    have hr : s.nextEdge.rst = false := by simpa using hr
    split at h
    · rename_i hh
      exact .idle t ((resets_false_iff _).mpr ⟨hr, by simp [hh]⟩) hh (blockStep_move h)
    · rename_i i hh
      obtain ⟨v, hv⟩ := exec_hostTurn_read hh s.atEdge
      rw [hv, andThen_of_next] at h
      exact .read i v t ((resets_false_iff _).mpr ⟨hr, by simp [hh]⟩) hh (blockStep_move h)
    · rename_i i hh
      obtain ⟨u, hu, h⟩ := andThen_next.mp h
      obtain ⟨w, hw, h⟩ := andThen_next.mp h
      obtain ⟨w', hw', m⟩ := exec_hostTurn_write hh u
      rw [hw] at hw'
      cases hw'
      cases h
      exact .write i u w ((resets_false_iff _).mpr ⟨hr, by simp [hh]⟩) hh (blockStep_move hu) m
    · rename_i i hh
      obtain ⟨lo, w, rfl⟩ := hostTurn_srst hh
      cases h
      exact .reset (by simp [Edge.resets, hh])

end Sys2Proof.Machine
end

