-- ==== Sys2Proof/Tests/Slice0.lean ====
section
/-! SUPPORT. Tests: ill-formed terms refused, words written out from the spec's encodings decoded, the worked examples of the
rules run for one step, and for every statement with premises a concrete state that meets them. -/

namespace Sys2Proof.Tests

open Sys2Proof Sys2Proof.Machine

/-! ### Well-formedness: one ill-formed term for each check -/

theorem test_wf_refuses_seekStart : (Instr.seekStart 0x7E#8).wf = false := by decide
theorem test_wf_refuses_startTag : (Instr.startTag 0x7F#8).wf = false := by decide
theorem test_wf_refuses_frameInfo : (Instr.frameInfo 0xB#4 0#1 38#11).wf = false := by decide
theorem test_wf_refuses_msgTs : (Instr.msgTs 0x08#8 zeroTimestamp).wf = false := by decide
theorem test_wf_refuses_count : (Instr.count 0x03#8 1#8).wf = false := by decide
theorem test_wf_refuses_variantUnsupported :
    [1#8, 9#8, 13#8, 14#8, 18#8].map (fun n => (Instr.variantUnsupported n).wf) = [false, false, false, false, false] := by
  decide
theorem test_wf_refuses_itemText_tag : (Instr.itemText .meterId 0x06#8 0#8 []).wf = false := by decide
theorem test_wf_refuses_itemText_length : (Instr.itemText .meterId 0x09#8 2#8 [0x41#8]).wf = false := by decide
theorem test_wf_refuses_itemU32 : (Instr.itemU32 .pImp 0x05#8 0#32).wf = false := by decide
theorem test_wf_refuses_itemS32 : (Instr.itemS32 .il1 0x09#8 0#32).wf = false := by decide
theorem test_wf_refuses_itemETs : (Instr.itemETs 0x02#8 zeroTimestamp).wf = false := by decide
theorem test_wf_refuses_fcsEndTag : (Instr.fcsEndTag 0x1234#16 0x7D#8).wf = false := by decide
theorem test_wf_refuses_hostSrst : (Instr.hostSrst 0#2 2#32).wf = false := by decide
theorem test_wf_refuses_hostCancel : (Instr.hostCancel 0#2 3#32).wf = false := by decide
theorem test_wf_refuses_hostWriteIgnored :
    [(0x00#8, 1#32), (0x01#8, 2#32), (0x04#8, 0#32), (0x0F#8, 0#32)].map
      (fun x => (Instr.hostWriteIgnored x.1 x.2).wf) = [false, false, false, false] := by decide
theorem test_wf_refuses_hostReadUnmapped : (Instr.hostReadUnmapped 0x33#8 0#32).wf = false := by decide

/-! ### Decoding: each row's word, from opcode_table.json and 30_encoding.md -/

theorem test_decode_seekByte : decode (.token .seek 0x00#8 0#12) [0x00#8, 0xA0#8] = .ok (.seekByte 0xA0#8) := by decide
theorem test_decode_seekStart : decode (.token .seek 0x7E#8 0#12) [0x00#8, 0xAF#8] = .ok (.seekStart 0xAF#8) := by decide
theorem test_decode_lenByte : decode (.token .len 0x00#8 0#12) [0x00#8, 0x26#8] = .ok (.lenByte 0x26#8) := by decide
theorem test_decode_bodyByte : decode (.token .body 0x00#8 2#12) [0x00#8, 0x7E#8] = .ok (.bodyByte 0x7E#8) := by decide
theorem test_decode_bodyLast : decode (.token .body 0x00#8 1#12) [0x00#8, 0x7E#8] = .ok (.bodyLast 0x7E#8) := by decide
theorem test_decode_streamEos : decode (.token .len 0x00#8 0#12) [0x01#8, 0x00#8] = .ok (.streamEos 0x00#8) := by decide
theorem test_decode_streamIoerr : decode (.token .body 0x00#8 0#12) [0x03#8, 0x00#8] = .ok (.streamIoerr 0x100#9) := by decide
theorem test_decode_cancelTake : decode .cancel [] = .ok .cancelTake := by decide
theorem test_decode_startTag : decode (.wire .startTag) [0x7E#8] = .ok (.startTag 0x7E#8) := by decide
theorem test_decode_frameInfo : decode (.wire .frameInfo) [0xAB#8, 0x79#8] = .ok (.frameInfo 0xA#4 1#1 0x379#11) := by decide
theorem test_decode_destAddr : decode (.wire .destAddr) [0x41#8] = .ok (.destAddr 0x41#8) := by decide
theorem test_decode_srcAddr : decode (.wire .srcAddr) [0x08#8, 0x83#8] = .ok (.srcAddr 0x0883#16) := by decide
theorem test_decode_control : decode (.wire .control) [0x13#8] = .ok (.control 0x13#8) := by decide
theorem test_decode_hcs : decode (.wire .hcs) [0x04#8, 0x13#8] = .ok (.hcs 0x0413#16) := by decide
theorem test_decode_metaBlock :
    decode (.wire .metaBlock) [0xE6#8, 0xE7#8, 0x00#8, 0x0F#8, 0x40#8, 0x00#8, 0x00#8, 0x01#8] =
      .ok (.metaBlock 0xE6#8 0xE7#8 0x00#8 0x0F40000001#40) := by decide
theorem test_decode_msgTs :
    decode (.wire .msgTs) [0x09#8, 0x0B#8, 0x07#8, 0xE1#8, 0x0A#8, 0x0F#8, 0x0C#8, 0x1E#8, 0x05#8, 0xFF#8, 0x80#8, 0x00#8,
      0x00#8] = .ok (.msgTs 0x09#8 ⟨0x0B#8, 2017#16, 10#8, 15#8, 12#8, 30#8, 5#8, 0xFF800000#32⟩) := by decide
theorem test_decode_count : decode (.wire .count) [0x02#8, 0x05#8] = .ok (.count 0x02#8 5#8) := by decide
theorem test_decode_variants :
    [1#8, 9#8, 13#8, 14#8, 18#8].map (fun n => decode (.wire .body) [0x02#8, n]) =
      [.ok .variant1, .ok .variant9, .ok .variant13, .ok .variant14, .ok .variant18] := by decide
theorem test_decode_variantUnsupported :
    [0#8, 2#8, 8#8, 10#8, 12#8, 15#8, 17#8, 19#8, 255#8].map (fun n => decode (.wire .body) [0x02#8, n]) =
      [0#8, 2#8, 8#8, 10#8, 12#8, 15#8, 17#8, 19#8, 255#8].map (fun n => .ok (.variantUnsupported n)) := by decide
theorem test_decode_itemText :
    decode (.wire (.text .obisVersion)) [0x09#8, 0x02#8, 0x56#8, 0x31#8, 0x09#8] =
      .ok (.itemText .obisVersion 0x09#8 2#8 [0x56#8, 0x31#8]) := by decide
theorem test_decode_itemU32 :
    decode (.wire (.u32 .pImp)) [0x06#8, 0x00#8, 0x00#8, 0x06#8, 0x40#8] = .ok (.itemU32 .pImp 0x06#8 1600#32) := by decide
theorem test_decode_itemS32 :
    decode (.wire (.s32 .il1)) [0x06#8, 0xFF#8, 0xFF#8, 0xFE#8, 0x0C#8] =
      .ok (.itemS32 .il1 0x06#8 0xFFFFFE0C#32) := by decide
theorem test_decode_itemETs :
    decode (.wire .eTs) [0x09#8, 0x0B#8, 0x07#8, 0xE1#8, 0x0A#8, 0x0F#8, 0x0C#8, 0x00#8, 0x00#8, 0xFF#8, 0x80#8, 0x00#8,
      0x00#8] = .ok (.itemETs 0x09#8 ⟨0x0B#8, 2017#16, 10#8, 15#8, 12#8, 0#8, 0#8, 0xFF800000#32⟩) := by decide
theorem test_decode_fcsEndTag :
    decode (.wire .footer) [0x12#8, 0x34#8, 0x7E#8] = .ok (.fcsEndTag 0x1234#16 0x7E#8) := by decide
theorem test_decode_decodeStep : decode .decode [] = .ok .decodeStep := by decide
theorem test_decode_sink :
    [0b100#8, 0b101#8, 0b110#8, 0b111#8].map (fun w => decode .sink [w]) =
      [.error .noHandshake, .error .noHandshake, .ok .sinkAck, .ok .sinkFail] := by decide

/-- A host word: `we`, `addr`, and the four bytes of `wdata`. -/
def hostWord (we addr w3 w2 w1 w0 : Byte) : Except Reject Instr := decode .host [we, addr, w3, w2, w1, w0]

theorem test_decode_hostSrst : hostWord 1 0x00 0 0 0 0x03 = .ok (.hostSrst 0#2 3#32) := by decide
theorem test_decode_hostCancel : hostWord 1 0x01 0 0 0 0x02 = .ok (.hostCancel 1#2 2#32) := by decide
theorem test_decode_hostW1cStatus : hostWord 1 0x04 0 0 0x07 0x00 = .ok (.hostW1cStatus 0#2 0x700#32) := by decide
theorem test_decode_hostWriteFbAddr : hostWord 1 0x0E 0 0 0x10 0x05 = .ok (.hostWriteFbAddr 2#2 0x1005#32) := by decide
theorem test_decode_hostWriteIgnored :
    hostWord 1 0x00 0 0 0 0x04 = .ok (.hostWriteIgnored 0x00#8 4#32) ∧
    hostWord 1 0x08 0 0 0 0x01 = .ok (.hostWriteIgnored 0x08#8 1#32) ∧
    hostWord 1 0xFC 0 0 0 0x01 = .ok (.hostWriteIgnored 0xFC#8 1#32) := by decide
theorem test_decode_hostReads :
    hostWord 0 0x00 0 0 0 0 = .ok (.hostReadCtrl 0#2 0#32) ∧ hostWord 0 0x04 0 0 0 0 = .ok (.hostReadStatus 0#2 0#32) ∧
    hostWord 0 0x0B 0 0 0 0 = .ok (.hostReadFbLen 3#2 0#32) ∧ hostWord 0 0x0C 0 0 0 0 = .ok (.hostReadFbAddr 0#2 0#32) ∧
    hostWord 0 0x10 0 0 0 0 = .ok (.hostReadFbData 0#2 0#32) ∧ hostWord 0 0x14 0 0 0 0 = .ok (.hostReadErrInfo 0#2 0#32) ∧
    hostWord 0 0x18 0 0 0 0 = .ok (.hostReadErrOffset 0#2 0#32) ∧ hostWord 0 0x1C 0 0 0 0 = .ok (.hostReadCntSeek 0#2 0#32) ∧
    hostWord 0 0x20 0 0 0 0 = .ok (.hostReadCntCap 0#2 0#32) ∧ hostWord 0 0x24 0 0 0 0 = .ok (.hostReadCntOk 0#2 0#32) ∧
    hostWord 0 0x28 0 0 0 0 = .ok (.hostReadCntFmt 0#2 0#32) ∧ hostWord 0 0x2C 0 0 0 0 = .ok (.hostReadCntVar 0#2 0#32) ∧
    hostWord 0 0x30 0 0 0 0 = .ok (.hostReadCntSinkFail 0#2 0#32) ∧
    hostWord 0 0x34 0 0 0 0 = .ok (.hostReadUnmapped 0x34#8 0#32) ∧
    hostWord 0 0xFF 0 0 0 1 = .ok (.hostReadUnmapped 0xFF#8 1#32) := by decide

/-! ### States the tests start from -/

/-- Frame F1 of 41_decoder_frame.md. -/
def f1 : List Byte :=
  [0x7E, 0xA0, 0x26, 0x41, 0x08, 0x83, 0x13, 0x04, 0x13, 0xE6, 0xE7, 0x00, 0x0F, 0x40, 0x00, 0x00, 0x00,
   0x09, 0x0B, 0x07, 0xE1, 0x0A, 0x0F, 0x0C, 0x1E, 0x05] ++
  [0xFF, 0x80, 0x00, 0x00, 0x02, 0x01, 0x06, 0x00, 0x00, 0x06, 0x40, 0x12, 0x34, 0x7E]

/-- A captured frame, waiting for the decoder. -/
def captured (bs : List Byte) : State :=
  { State.reset with phase := .decode, fb := Memory.writeList [] 0 bs, fbLen := BitVec.ofNat 12 bs.length }

/-- A decode step with the cursor at `cur` in a frame of `n` bytes, none of them written. -/
def inFrame (n cur : Nat) : State :=
  { State.reset with phase := .decode, fbLen := BitVec.ofNat 12 n, dec := some ⟨cur, [], Rec.zero⟩ }

/-- A synchronizer in the middle of a capture, with the first two bytes written. -/
def capturing (sync : SyncState) (c : Byte) (wp rem : BitVec 12) : State :=
  { State.reset with sync := sync, win := c, fb := [(0, 0x7E#8), (1, c)], wp := wp, rem := rem }

/-- The next state of an instruction, where it has one. -/
def nextOf (r : Host.Outcome State Fault Refusal) : Option State :=
  match r with
  | .next t => some t
  | .fault _ => none
  | .refused _ => none

/-- The value a host read answers. -/
def answer (i : Instr) (s : State) : Option Word32 := (nextOf (exec i s)).bind fun t => t.out.hostRdata

/-- A decode step with the cursor at `cur` in a frame. -/
def reading (bs : List Byte) (cur : Nat) : State := { captured bs with dec := some ⟨cur, [], Rec.zero⟩ }

/-- The record under construction after the wire row at a place of a frame. -/
def recordAfter (p : Place) (bs : List Byte) (cur : Nat) : Option Rec :=
  (nextOf (exec ((reading bs cur).wireInstr ⟨cur, [], Rec.zero⟩ p) (reading bs cur))).bind fun t => t.dec.map (·.record)

/-! ### The worked examples of the rules, one step each -/

/-- R70's example. -/
theorem test_seekByte :
    (nextOf (exec (.seekByte 0x55#8) { State.reset with win := 0x7E#8 })).map (fun t => (t.win, t.cntSeek, t.sync)) =
      some (0x55#8, 1#32, .seek) := by decide
/-- R71's example, its second byte. -/
theorem test_seekStart :
    (nextOf (exec (.seekStart 0xA0#8) { State.reset with win := 0x7E#8, cntSeek := 1#32 })).map
      (fun t => (t.fb, t.wp, t.sync, t.cntSeek)) = some ([(0, 0x7E#8), (1, 0xA0#8)], 2#12, .len, 2#32) := by decide
/-- R72's example. -/
theorem test_lenByte :
    (nextOf (exec (.lenByte 0x26#8) (capturing .len 0xA0#8 2#12 0#12))).map (fun t => (t.flen, t.rem, t.wp, t.sync)) =
      some (38#11, 37#12, 3#12, .body) := by decide
/-- R72's corner case `L = 0` (R75: a 3-byte capture). -/
theorem test_lenByte_zero :
    (nextOf (exec (.lenByte 0x00#8) (capturing .len 0xA8#8 2#12 0#12))).map
      (fun t => (t.flen, t.fbLen, t.phase, t.sync, t.win, t.cntCap)) =
      some (0#11, 3#12, .decode, .seek, 0x00#8, 1#32) := by decide
/-- R73's example. -/
theorem test_bodyByte :
    (nextOf (exec (.bodyByte 0x41#8) (capturing .body 0xA0#8 3#12 37#12))).map
      (fun t => (Memory.read t.fb 3, t.wp, t.rem, t.sync)) = some (some 0x41#8, 4#12, 36#12, .body) := by decide
/-- R74's example. -/
theorem test_bodyLast :
    (nextOf (exec (.bodyLast 0x7E#8) (capturing .body 0xA0#8 39#12 1#12))).map
      (fun t => (Memory.read t.fb 39, t.rem, t.fbLen, t.phase, t.win)) =
      some (some 0x7E#8, 0#12, 40#12, .decode, 0x00#8) := by decide
/-- R76's example; R120's example of the STATUS that follows. -/
theorem test_streamEos :
    (nextOf (exec (.streamEos 0x00#8) (capturing .body 0xA0#8 12#12 3#12))).map
      (fun t => (t.phase, t.serrCode, t.err, t.statusWord)) =
      some (.halted, 1#2, ⟨3#3, 1#3, 2#5, 12#12, 0#8⟩, 0x0001000B#32) := by decide
/-- R77's example. -/
theorem test_streamIoerr :
    (nextOf (exec (.streamIoerr 0x000#9) { State.reset with wp := 9#12 })).map (fun t => (t.phase, t.serrCode, t.err)) =
      some (.halted, 2#2, ⟨3#3, 2#3, 0#5, 0#12, 0#8⟩) := by decide
/-- R78's example. -/
theorem test_cancelTake :
    (nextOf (exec .cancelTake { capturing .len 0xA0#8 2#12 0#12 with cancelPending := true })).map
      (fun t => (t.phase, t.serrCode, t.err, t.cancelPending)) =
      some (.halted, 3#2, ⟨3#3, 3#3, 1#5, 2#12, 0#8⟩, true) := by decide
/-- R85's example. -/
theorem test_startTag : (recordAfter .startTag f1 0).map (·.mask) = some 0x00000002#32 := by decide +kernel
/-- R86's example. -/
theorem test_frameInfo : (recordAfter .frameInfo f1 1).map (fun r => (r.hdr.format, r.hdr.sep, r.hdr.len)) =
    some (0xA#4, 0#1, 38#11) := by decide +kernel
/-- R86's example of a length mismatch, the capture `7E A0 00`. -/
theorem test_frameInfo_mismatch :
    (nextOf (exec (.frameInfo 0xA#4 0#1 0#11) (reading [0x7E#8, 0xA0#8, 0x00#8] 1))).map (fun t => (t.err, t.phase)) =
      some (⟨1#3, 3#3, 2#5, 1#12, 0xA0#8⟩, .sync) := by decide
/-- R87's example. -/
theorem test_addresses :
    (recordAfter .destAddr f1 3).map (·.hdr.dest) = some 0x41#8 ∧
    (recordAfter .srcAddr f1 4).map (·.hdr.src) = some 0x0883#16 ∧
    (recordAfter .control f1 6).map (·.hdr.ctrl) = some 0x13#8 := by decide +kernel
/-- R88's example. -/
theorem test_hcs : (recordAfter .hcs f1 7).map (·.hdr.hcs) = some 0x0413#16 := by decide +kernel
/-- R89's example. -/
theorem test_metaBlock : (recordAfter .metaBlock f1 9).map (·.link) =
    some ⟨0xE6#8, 0xE7#8, 0x00#8, 0x0F40000000#40⟩ := by decide +kernel
/-- R91's example. -/
theorem test_msgTs : (recordAfter .msgTs f1 17).map (·.ts) =
    some ⟨0x0B#8, 2017#16, 10#8, 15#8, 12#8, 30#8, 5#8, 0xFF800000#32⟩ := by decide +kernel
/-- R92's example. -/
theorem test_count : (recordAfter .count f1 30).map (·.count) = some 1#8 := by decide +kernel
/-- R100's example. -/
theorem test_variant1 :
    (nextOf (exec .variant1 (reading f1 32))).bind (fun t => t.dec.map fun d => (d.cur, d.record.variant, d.record.pImp)) =
      some (37, 0#3, 1600#32) := by decide +kernel
/-- R95's example. -/
theorem test_variantUnsupported :
    (nextOf (exec (.variantUnsupported 5#8) (inFrame 40 32))).map (fun t => (t.err, t.cntVar, t.varSeen, t.phase)) =
      some (⟨2#3, 0#3, 9#5, 31#12, 5#8⟩, 1#32, true, .sync) := by decide
/-- R96's example: at `cur = 32`, `09 02 56 31`. -/
theorem test_itemText :
    (nextOf (exec (.itemText .obisVersion 0x09#8 2#8 [0x56#8, 0x31#8]) (inFrame 100 32))).bind
      (fun t => t.dec.map fun d => (d.cur, d.record.obis)) = some (36, ⟨34#12, 2#8⟩) := by decide
/-- R97's example. -/
theorem test_itemU32 :
    (nextOf (exec (.itemU32 .qExp 0x06#8 1600#32) (inFrame 100 32))).bind
      (fun t => t.dec.map fun d => (d.cur, d.record.qExp, d.record.mask)) = some (37, 1600#32, 0x00010000#32) := by decide
/-- R98's example. -/
theorem test_itemS32 :
    (nextOf (exec (.itemS32 .il1 0x06#8 0xFFFFFE0C#32) (inFrame 100 32))).bind
      (fun t => t.dec.map fun d => (d.record.il1, toSigned32 d.record.il1)) = some (0xFFFFFE0C#32, -500) := by decide
/-- R99's example. -/
theorem test_itemETs :
    (nextOf (exec (.itemETs 0x09#8 ⟨0x0B#8, 2017#16, 10#8, 15#8, 12#8, 0#8, 0#8, 0xFF800000#32⟩) (inFrame 100 32))).bind
      (fun t => t.dec.map fun d => (d.cur, d.record.ets.year, d.record.mask)) = some (45, 2017#16, 0x00800000#32) := by decide
/-- R93's example. -/
theorem test_fcsEndTag :
    (nextOf (exec (.fcsEndTag 0x1234#16 0x7E#8) (inFrame 40 37))).bind
      (fun t => t.dec.map fun d => (d.cur, d.record.fcs, d.record.mask)) = some (40, 0x1234#16, 0x30000000#32) := by decide
/-- R107's example. -/
theorem test_decodeStep :
    (nextOf (exec .decodeStep (captured f1))).map
      (fun t => (t.record.count, t.record.pImp, t.record.mask, t.cntOk, t.phase)) =
      some (1#8, 1600#32, 0x300023FE#32, 1#32, .emit) := by decide +kernel
/-- R108's example. -/
theorem test_decodeStep_error :
    (nextOf (exec .decodeStep (captured (f1.set 32 0x05#8)))).map (fun t => (t.err, t.cntFmt, t.phase, t.out.log)) =
      some (⟨1#3, 1#3, 13#5, 32#12, 0x05#8⟩, 1#32, .sync, some ⟨1#3, 1#3, 13#5, 32#12, 0x05#8⟩) := by decide +kernel
/-- R109's example. -/
theorem test_sinkAck :
    (nextOf (exec .sinkAck { State.reset with phase := .emit })).map (fun t => (t.phase, t.inReady)) =
      some (.sync, true) := by decide
/-- R110's example. -/
theorem test_sinkFail :
    (nextOf (exec .sinkFail { State.reset with phase := .emit })).map
      (fun t => (t.err.kind, t.sinkSeen, t.cntSinkFail, t.phase)) = some (4#3, true, 1#32, .sync) := by decide
/-- R118's example. -/
theorem test_hostSrst :
    (nextOf (exec (.hostSrst 0#2 1#32) { State.reset with phase := .halted, serrCode := 1#2, cntSeek := 7#32 })).map
      (fun t => (t.statusWord, t.cntSeek, t.inReady)) = some (0#32, 0#32, true) := by decide
/-- R119's example. -/
theorem test_hostCancel :
    (nextOf (exec (.hostCancel 0#2 2#32) State.reset)).map (fun t => (t.cancelPending, t.inReady)) =
      some (true, false) := by decide
/-- R121's example. -/
theorem test_hostW1cStatus :
    (nextOf (exec (.hostW1cStatus 0#2 0x100#32) { State.reset with fmtSeen := true, varSeen := true })).map
      (·.statusWord) = some 0x00000200#32 := by decide
/-- R123's example. -/
theorem test_hostWriteFbAddr :
    (nextOf (exec (.hostWriteFbAddr 0#2 0x1005#32) State.reset)).map (·.fbAddr) = some 0x005#12 := by decide
/-- R127. -/
theorem test_hostWriteIgnored :
    nextOf (exec (.hostWriteIgnored 0x10#8 1#32) State.reset) = some State.reset := by decide
/-- R120's example. -/
theorem test_hostReadStatus :
    answer (.hostReadStatus 0#2 0#32) { State.reset with phase := .halted, sync := .body, serrCode := 1#2 } =
      some 0x0001000B#32 := by decide
/-- R122's example. -/
theorem test_hostReadFbLen : answer (.hostReadFbLen 0#2 0#32) (captured f1) = some 0x00000028#32 := by decide +kernel
/-- R123. -/
theorem test_hostReadFbAddr :
    answer (.hostReadFbAddr 0#2 0#32) { State.reset with fbAddr := 0xFFF#12 } = some 0x00000FFF#32 := by decide
/-- R124's example. -/
theorem test_hostReadFbData :
    answer (.hostReadFbData 0#2 0#32) { captured f1 with fbAddr := 31#12 } = some 0x00000001#32 := by decide +kernel
/-- R124 above index 2048. -/
theorem test_hostReadFbData_above :
    answer (.hostReadFbData 0#2 0#32) { captured f1 with fbAddr := 2049#12 } = some 0#32 := by decide +kernel
/-- R125's example. -/
theorem test_hostReadErr :
    answer (.hostReadErrInfo 0#2 0#32) { State.reset with err := ⟨1#3, 1#3, 9#5, 30#12, 0x03#8⟩ } = some 0x00030911#32 ∧
    answer (.hostReadErrOffset 0#2 0#32) { State.reset with err := ⟨1#3, 1#3, 9#5, 30#12, 0x03#8⟩ } =
      some 0x0000001E#32 := by decide
/-- R126, R117. -/
theorem test_hostReadCounters :
    [Instr.hostReadCntSeek 0#2 0#32, .hostReadCntCap 0#2 0#32, .hostReadCntOk 0#2 0#32, .hostReadCntFmt 0#2 0#32,
      .hostReadCntVar 0#2 0#32, .hostReadCntSinkFail 0#2 0#32, .hostReadCtrl 0#2 0#32, .hostReadUnmapped 0x34#8 0#32].map
      (fun i => answer i { State.reset with
        cntSeek := 1#32, cntCap := 2#32, cntOk := 3#32, cntFmt := 4#32, cntVar := 5#32, cntSinkFail := 6#32 }) =
      [some 1#32, some 2#32, some 3#32, some 4#32, some 5#32, some 6#32, some 0#32, some 0#32] := by decide
/-- The variant rows of 30_encoding.md R60 read as many items as their counts say. -/
theorem test_variant_sizes :
    [items1, items9, items13, items14, items18].map (·.length) = [1, 9, 13, 14, 18] := by decide
/-- R103's mask, through a decode of an energy frame with three empty texts. -/
theorem test_variant14 :
    (captured ([0x7E#8, 0xA0#8, 0x66#8] ++ (f1.drop 3).take 28 ++ [14#8] ++ [0x09#8, 0#8, 0x09#8, 0#8, 0x09#8, 0#8] ++
      ((List.replicate 6 [0x06#8, 0#8, 0#8, 0#8, 0#8]).flatten ++ (f1.drop 17).take 13 ++
      (List.replicate 4 [0x06#8, 0#8, 0#8, 0#8, 0#8]).flatten ++ [0x12#8, 0x34#8, 0x7E#8]))).decodeFrame.map
        (fun r => (r.count, r.variant, r.mask, r.ets.year)) = .ok (14#8, 3#3, 0x3F93FFFE#32, 2017#16) := by decide +kernel

/-! ### Witnesses: a state and operands that meet the premises of each statement, each clause at a boundary -/

/-- A state with one edge to come. -/
def facing (e : Edge) (s : State) : State := { s with edges := [e] }

/-- A host write as an edge. -/
def hostEdge (w : HostWord) : Edge := { Edge.idle with host := some w, internal := false }

theorem witness_ResetLeavesEveryRegisterAtItsValue :
    ∃ t s : State, s.phase = .halted ∧ t = s.softReset := ⟨_, { State.reset with phase := .halted }, rfl, rfl⟩

theorem witness_ResetEdgeResetsAndDiscardsEveryStep :
    (captured f1).dec = none ∧
    (facing { byteEdge 0x7E#8 with rst := true } (captured f1)).nextEdge.resets = true ∧
    (facing (hostEdge 0x10000000001#41) State.reset).nextEdge.resets = true := by decide +kernel

/-- The clause on HALTED: a halted block that the next step resets. -/
theorem witness_ResetEdge_leavesHalted :
    let s := facing (hostEdge 0x10000000003#41) { State.reset with phase := .halted, serrCode := 1#2 }
    s.dec = none ∧ s.phase = .halted ∧ ∃ t, step s = .next t ∧ t.phase ≠ .halted :=
  ⟨rfl, rfl, _, rfl, by decide⟩

theorem witness_SeekByteCountsAndMovesTheWindow :
    let s : State := { State.reset with win := 0x7E#8 }
    s.phase = .sync ∧ s.cancelPending = false ∧ s.sync = .seek ∧
    ¬(s.win = 0x7E#8 ∧ (0x9F#8 : Byte).extractLsb' 4 4 = 0xA#4) ∧
    ¬(State.reset.win = 0x7E#8 ∧ (0xA0#8 : Byte).extractLsb' 4 4 = 0xA#4) := by decide

theorem witness_SeekStartOpensACapture :
    let s : State := { State.reset with win := 0x7E#8 }
    s.phase = .sync ∧ s.cancelPending = false ∧ s.sync = .seek ∧ s.win = 0x7E#8 ∧
    (0xA0#8 : Byte).extractLsb' 4 4 = 0xA#4 ∧ (0xAF#8 : Byte).extractLsb' 4 4 = 0xA#4 := by decide

theorem witness_LenByteSizesTheCapture :
    let s := capturing .len 0xA0#8 2#12 0#12
    let u := capturing .len 0xAF#8 2#12 0#12
    s.phase = .sync ∧ s.cancelPending = false ∧ s.sync = .len ∧
    u.phase = .sync ∧ u.cancelPending = false ∧ u.sync = .len ∧
    ((fbRead s.fb 1).extractLsb' 0 3 ++ 0x02#8 : BitVec 11).toNat = 2 ∧
    ((fbRead u.fb 1).extractLsb' 0 3 ++ 0xFF#8 : BitVec 11).toNat = 2047 ∧
    ((fbRead s.fb 1).extractLsb' 0 3 ++ 0x01#8 : BitVec 11).toNat = 1 ∧
    ((fbRead s.fb 1).extractLsb' 0 3 ++ 0x00#8 : BitVec 11).toNat = 0 := by decide

theorem witness_BodyBytesAreStoredUntilTheLast :
    let s := capturing .body 0xAF#8 2047#12 2#12
    let u := capturing .body 0xAF#8 2048#12 1#12
    s.phase = .sync ∧ s.cancelPending = false ∧ s.sync = .body ∧ s.wp.toNat ≤ 2048 ∧ 1 < s.rem.toNat ∧
    u.phase = .sync ∧ u.cancelPending = false ∧ u.sync = .body ∧ u.wp.toNat ≤ 2048 ∧ u.rem = 1#12 := by decide

theorem witness_StreamErrorsEndTheRun :
    State.reset.phase = .sync ∧ State.reset.cancelPending = false ∧
    ({ State.reset with cancelPending := true } : State).phase = .sync ∧
    ({ State.reset with cancelPending := true } : State).cancelPending = true := by decide

theorem witness_TokenIsTakenOnlyWhenReady :
    (captured f1).dec = none ∧ (captured f1).inReady = false ∧
    ({ State.reset with cancelPending := true } : State).inReady = false := by decide +kernel

theorem witness_StopsAreTheTwoNamedFaults :
    let s := capturing .body 0xAF#8 2049#12 2#12
    let u := capturing .body 0xAF#8 2049#12 1#12
    let v := facing (byteEdge 0x00#8) (capturing .body 0xAF#8 3#12 0#12)
    s.phase = .sync ∧ s.cancelPending = false ∧ s.sync = .body ∧ 2048 < s.wp.toNat ∧ 1 < s.rem.toNat ∧
    u.phase = .sync ∧ u.cancelPending = false ∧ u.sync = .body ∧ 2048 < u.wp.toNat ∧ u.rem = 1#12 ∧
    v.dec = none ∧ v.inReady = true ∧ v.sync = .body ∧ v.rem = 0#12 ∧ v.nextEdge.rst = false ∧ v.nextEdge.host = none ∧
    v.nextEdge.token = some (byteToken 0x00#8) := by decide

theorem witness_StartTagIsExpected :
    (inFrame 0 0).dec = some ⟨0, [], Rec.zero⟩ ∧ (inFrame 0 0).fbLen.toNat < 0 + 1 ∧
    (inFrame 1 0).dec = some ⟨0, [], Rec.zero⟩ ∧ 0 + 1 ≤ (inFrame 1 0).fbLen.toNat ∧ (0x7F#8 : Byte) ≠ 0x7E#8 := by decide

theorem witness_FrameInfoIsReadAndChecked :
    (reading f1 1).dec = some ⟨1, [], Rec.zero⟩ ∧
    (reading f1 1).frameByte 1 = 0xA0#8 ∧ (reading f1 1).frameByte (1 + 1) = 0x26#8 ∧
    (inFrame 2 1).fbLen.toNat < 1 + 2 ∧
    1 + 2 ≤ (inFrame 3 1).fbLen.toNat ∧ (inFrame 3 1).fbLen.toNat ≠ ((0xA0#8).extractLsb' 0 3 ++ 0x00#8 : BitVec 11).toNat + 2 ∧
    1 + 2 ≤ (inFrame 2049 1).fbLen.toNat ∧
    (inFrame 2049 1).fbLen.toNat = ((0xA7#8).extractLsb' 0 3 ++ 0xFF#8 : BitVec 11).toNat + 2 := by decide +kernel

theorem witness_RawFieldsAreReadAsTheyStand :
    (inFrame 3 3).dec = some ⟨3, [], Rec.zero⟩ ∧ (inFrame 3 3).fbLen.toNat < 3 + 1 ∧ 3 + 1 ≤ (inFrame 4 3).fbLen.toNat ∧
    (inFrame 5 4).fbLen.toNat < 4 + 2 ∧ 4 + 2 ≤ (inFrame 6 4).fbLen.toNat ∧
    (inFrame 16 9).fbLen.toNat < 9 + 8 ∧ 9 + 8 ≤ (inFrame 17 9).fbLen.toNat := by decide

theorem witness_TimestampItemsAreRead :
    (inFrame 17 17).dec = some ⟨17, [], Rec.zero⟩ ∧ (inFrame 17 17).fbLen.toNat < 17 + 1 ∧
    17 + 1 ≤ (inFrame 18 17).fbLen.toNat ∧ (0x08#8 : Byte) ≠ 0x09#8 ∧
    17 + 1 ≤ (inFrame 29 17).fbLen.toNat ∧ (inFrame 29 17).fbLen.toNat < 17 + 13 ∧
    17 + 13 ≤ (inFrame 30 17).fbLen.toNat := by decide

theorem witness_CountIsReadWhateverItsValue :
    (inFrame 30 30).dec = some ⟨30, [], Rec.zero⟩ ∧ (inFrame 30 30).fbLen.toNat < 30 + 1 ∧
    30 + 1 ≤ (inFrame 31 30).fbLen.toNat ∧ (0x03#8 : Byte) ≠ 0x02#8 ∧ (inFrame 31 30).fbLen.toNat = 30 + 1 ∧
    30 + 2 ≤ (inFrame 32 30).fbLen.toNat := by decide

theorem witness_FooterEndsTheFrame :
    (inFrame 38 37).dec = some ⟨37, [], Rec.zero⟩ ∧ (inFrame 38 37).fbLen.toNat < 37 + 2 ∧
    (inFrame 39 37).fbLen.toNat = 37 + 2 ∧ 37 + 3 ≤ (inFrame 40 37).fbLen.toNat ∧ (0x7D#8 : Byte) ≠ 0x7E#8 ∧
    37 + 3 < (inFrame 41 37).fbLen.toNat ∧ 37 + 3 = (inFrame 40 37).fbLen.toNat := by decide

theorem witness_TextItemRecordsWhereItStands :
    (inFrame 32 32).dec = some ⟨32, [], Rec.zero⟩ ∧ (inFrame 32 32).fbLen.toNat < 32 + 1 ∧
    32 + 1 ≤ (inFrame 33 32).fbLen.toNat ∧ (0x06#8 : Byte) ≠ 0x09#8 ∧ (inFrame 33 32).fbLen.toNat = 32 + 1 ∧
    32 + 2 ≤ (inFrame 34 32).fbLen.toNat ∧ (inFrame 34 32).fbLen.toNat < 32 + 2 + (1#8).toNat ∧
    32 + 2 + (0#8).toNat ≤ (inFrame 34 32).fbLen.toNat ∧ 32 + 2 + (255#8).toNat ≤ (inFrame 289 32).fbLen.toNat := by decide

theorem witness_IntegerItemsReadTheirField :
    (inFrame 32 32).dec = some ⟨32, [], Rec.zero⟩ ∧ (inFrame 32 32).fbLen.toNat < 32 + 1 ∧
    32 + 1 ≤ (inFrame 33 32).fbLen.toNat ∧ (0x09#8 : Byte) ≠ 0x06#8 ∧
    32 + 1 ≤ (inFrame 36 32).fbLen.toNat ∧ (inFrame 36 32).fbLen.toNat < 32 + 5 ∧
    32 + 5 ≤ (inFrame 37 32).fbLen.toNat := by decide

theorem witness_CountSelectsTheVariant : (inFrame 40 32).dec = some ⟨32, [], Rec.zero⟩ := by decide

theorem witness_VariantRowsReadTheirItemsInOrder :
    (reading f1 32).dec = some ⟨32, [], Rec.zero⟩ ∧
    (reading f1 32).itemsEnd [.u32 .pImp] 32 = some 37 ∧
    (reading f1 30).itemsError [.u32 .pImp] 30 = some (.format .tagMismatch .pImp 30 0x02#8) ∧
    (reading f1 40).itemsError items18 40 = some (.format .overrun .obisVersion 40 0x00#8) := by decide +kernel

theorem witness_FieldIdsAndTheirMaskBits : 31 < 32 := by decide

theorem witness_DecodeStepCommitsOrReports :
    (captured f1).phase = .decode ∧ (∃ r, (captured f1).decodeFrame = .ok r) ∧
    (captured (f1.set 31 5#8)).decodeFrame = .error (.unsupportedVariant 5#8) ∧
    (captured [0x7E#8, 0xA0#8, 0x00#8]).decodeFrame = .error (.format .lengthMismatch .frameInfo 1 0xA0#8) :=
  ⟨rfl, ⟨_, rfl⟩, by decide +kernel, by decide +kernel⟩

theorem witness_ErrorEntryRecordsCountsAndFlags :
    let s : State := { State.reset with phase := .emit }
    s.phase = .emit ∧ ∃ t, exec .sinkFail s = .next t := ⟨rfl, _, rfl⟩

/-- Frame F1 is well formed. -/
theorem witness_DecodeAcceptsExactlyTheWellFormedFrames : (captured f1).WellFormedFrame :=
  ⟨by decide +kernel, by decide +kernel, by decide +kernel, by decide +kernel, by decide +kernel,
    0#3, items1, 0x300023FE#32, 37, by decide +kernel, by decide +kernel, by decide +kernel, by decide +kernel⟩

theorem witness_DecodedRecordHasItsVariantsFields : ∃ r, (captured f1).decodeFrame = .ok r := ⟨_, rfl⟩

theorem witness_WellFormedFrameSizes : (captured f1).WellFormedFrame ∧ (captured f1).frameRecord.count = 1#8 :=
  ⟨witness_DecodeAcceptsExactlyTheWellFormedFrames, by decide +kernel⟩

theorem witness_DecodeReadsOnlyTheCapturedBytes :
    let s := captured [0x7E#8, 0xA0#8]
    let t := { captured [0x7E#8, 0xA0#8, 0x55#8] with fbLen := 2#12 }
    s ≠ t ∧ s.fbLen = t.fbLen ∧ ∀ a, a < s.fbLen.toNat → fbRead s.fb a = fbRead t.fb a := by decide

theorem witness_DecodeRowByRowIsTheDecodeStep : (captured f1).phase = .decode := rfl

theorem witness_SinkAnswersEndTheHandOver : ({ captured f1 with phase := .emit } : State).phase = .emit := rfl

theorem witness_CapturedFrameHoldsUntilTheHandOver :
    (∃ s t : State, s.dec = none ∧ s.phase = .decode ∧ s.nextEdge.resets = false ∧ step s = .next t) ∧
    (∃ s t : State, s.dec = none ∧ s.phase = .emit ∧ s.nextEdge.resets = false ∧ step s = .next t) :=
  ⟨⟨captured [0x7E#8], _, rfl, rfl, rfl, rfl⟩, ⟨{ captured [0x7E#8] with phase := .emit }, _, rfl, rfl, rfl, rfl⟩⟩

theorem witness_HaltedBlockDoesNothing :
    let s := facing (hostEdge 0x10400000700#41) { State.reset with phase := .halted }
    s.dec = none ∧ s.phase = .halted ∧ s.nextEdge.resets = false := by decide

/-- A hand-over, the case that counts, and an edge at which the sink does not answer. -/
theorem witness_HandOversFollowTheDecodes :
    let s := facing { Edge.idle with sink := 0b10#2 } { captured [0x7E#8] with phase := .emit }
    (s.dec = none ∧ s.nextEdge.resets = false ∧ (s.handover s.nextEdge).length = 1 ∧ ∃ t, step s = .next t) ∧
    (s.phase = .emit ∧ s.nextEdge.sink.getLsbD 1 = true) ∧ Edge.idle.sink.getLsbD 1 = false :=
  ⟨⟨rfl, rfl, by decide, _, rfl⟩, ⟨rfl, by decide⟩, by decide⟩

/-- The text "V1" of a held record, handed over with the sink's failure (42_decoder_body.md R96, the example). -/
theorem test_handover_text :
    let s : State := { captured [0x09#8, 0x02#8, 0x56#8, 0x31#8] with
      phase := .emit, record := { Rec.zero with obis := ⟨2#12, 2#8⟩ } }
    s.handover { Edge.idle with sink := 0b11#2 } = [.handover ⟨s.record, true, [0x56#8, 0x31#8], [], []⟩] := by decide

/-- A decode that succeeds, and one that fails. -/
theorem witness_RecordIsWrittenOnlyByADecode :
    (captured f1).dec = none ∧ (captured f1).nextEdge.resets = false ∧
    (∃ t, step (captured f1) = .next t ∧ t.phase = .emit) ∧
    (∃ t, step (captured [0x7E#8]) = .next t ∧ t.phase = .sync) :=
  ⟨rfl, rfl, ⟨_, rfl, rfl⟩, ⟨_, rfl, rfl⟩⟩

theorem witness_CountersCountTheirEvents :
    let s := facing (byteEdge 0x7E#8) State.reset
    let u := facing (hostEdge 0x10000000001#41) { State.reset with cntSeek := 5#32, fmtSeen := true }
    (s.dec = none ∧ s.nextEdge.resets = false ∧ ∃ t, step s = .next t) ∧
    (u.dec = none ∧ u.nextEdge.resets = true ∧ ∃ t, step u = .next t ∧ t.out.log = none) :=
  ⟨⟨rfl, rfl, _, rfl⟩, rfl, rfl, _, rfl, rfl⟩

/-- A reset edge, the other case of the next two. -/
theorem witness_resetEdgeGoesOn :
    let u := facing (hostEdge 0x10000000001#41) { State.reset with cntSeek := 5#32, fmtSeen := true }
    u.dec = none ∧ u.nextEdge.resets = true ∧ u.fmtSeen = true ∧ ∃ t, step u = .next t := ⟨rfl, rfl, rfl, _, rfl⟩

/-- A flag cleared, and a flag raised at the edge of its clear. -/
theorem witness_StickyFlagsAreSetAndClearedAsStated :
    (∃ s t : State, s.dec = none ∧ s.nextEdge.resets = false ∧ s.fmtSeen = true ∧ step s = .next t ∧ t.fmtSeen = false) ∧
    (∃ s t : State, s.dec = none ∧ s.nextEdge.resets = false ∧ s.fmtSeen = false ∧ step s = .next t ∧ t.fmtSeen = true) :=
  ⟨⟨facing (hostEdge 0x10400000100#41) { State.reset with fmtSeen := true }, _, rfl, rfl, rfl, rfl, by decide⟩,
    ⟨facing { hostEdge 0x10400000100#41 with internal := true } (captured [0x7E#8]), _, rfl, rfl, rfl, rfl, by decide⟩⟩

/-- A FormatError, a StreamError and a SinkError. -/
theorem witness_LogPulsesExactlyWithAnError :
    (∃ t, step (captured [0x7E#8]) = .next t ∧ t.out.log = some ⟨1#3, 2#3, 2#5, 1#12, 0x00#8⟩) ∧
    (∃ t, step { State.reset with cancelPending := true } = .next t ∧ t.out.log = some ⟨3#3, 3#3, 0#5, 0#12, 0x00#8⟩) ∧
    (∃ t, step (facing { Edge.idle with sink := 0b11#2 } { captured [0x7E#8] with phase := .emit }) = .next t ∧
      t.out.log = some ⟨4#3, 0#3, 0#5, 0#12, 0x00#8⟩) :=
  ⟨⟨_, rfl, rfl⟩, ⟨_, rfl, rfl⟩, ⟨_, rfl, rfl⟩⟩

theorem witness_CancelStaysPendingUntilReset :
    let s := facing (hostEdge 0x10000000002#41) State.reset
    s.dec = none ∧ s.nextEdge.resets = false ∧ ∃ t, step s = .next t ∧ t.cancelPending = true := ⟨rfl, rfl, _, rfl, rfl⟩

theorem witness_HostCommandsResetAndCancel :
    State.reset.phase ≠ .halted ∧ ({ State.reset with phase := .halted } : State).phase = .halted ∧
    (1#32).getLsbD 0 = true ∧ (2#32).getLsbD 0 = false ∧ (2#32).getLsbD 1 = true := by decide

/-- The offsets around those that a write has a row for. -/
theorem witness_HostWritesToRegisters :
    (2#6 ≠ 0#6 ∧ 2#6 ≠ 1#6 ∧ 2#6 ≠ 3#6) ∧ (4#32).getLsbD 0 = false ∧ (4#32).getLsbD 1 = false := by decide

theorem witness_HostReadsAnswerTheRegister :
    12 < (13#6).toNat ∧ 12 < (63#6).toNat ∧ 2#6 ≠ 0#6 ∧ 2#6 ≠ 1#6 ∧ 2#6 ≠ 3#6 := by decide

theorem witness_SinkReadPortShowsTheBuffer :
    let s := facing { Edge.idle with sbAddr := some 2049#12 } State.reset
    let u := facing { Edge.idle with sbAddr := none } State.reset
    s.dec = none ∧ (∃ t, step s = .next t) ∧ (u.dec = none ∧ ∃ t, step u = .next t) ∧
    (∃ v : State, v.dec = none ∧ v.outValid = true ∧ ∃ t, step v = .next t) :=
  ⟨rfl, ⟨_, rfl⟩, ⟨rfl, _, rfl⟩, { captured [0x7E#8] with phase := .emit }, rfl, rfl, _, rfl⟩

/-- A byte taken, no token, a pending cancel, a frame to decode, an acknowledged and an unanswered record, and HALTED. -/
theorem witness_StepRunsTheDecodedBlockRow :
    let s := facing (byteEdge 0x7E#8) State.reset
    s.dec = none ∧ s.nextEdge.rst = false ∧ s.nextEdge.host = none ∧ s.inReady = true ∧
    s.nextEdge.token = some (byteToken 0x7E#8) ∧
    decode s.tokenPort (bytesToken (byteToken 0x7E#8)) = .ok (.seekByte 0x7E#8) ∧ (Instr.seekByte 0x7E#8).wf = true ∧
    State.reset.nextEdge.token = none ∧
    ({ State.reset with cancelPending := true } : State).cancelPending = true ∧ (captured [0x7E#8]).phase = .decode ∧
    decode .sink [0b000001#6 ++ 0b10#2] = .ok .sinkAck ∧ Instr.sinkAck.wf = true ∧ Edge.idle.sink.getLsbD 1 = false ∧
    ({ State.reset with phase := .halted } : State).phase = .halted := by decide

/-- No access, a read, a write, and a write of CTRL.SRST. -/
theorem witness_HostAccessSharesTheEdge :
    let w : HostWord := 0x00400000000#41
    let x : HostWord := 0x10400000100#41
    let y : HostWord := 0x10000000001#41
    let word (w : HostWord) := decode .host (bytesHost (w.extractLsb' 40 1) (w.extractLsb' 32 8) (w.extractLsb' 0 32))
    (facing (hostEdge w) State.reset).dec = none ∧ (hostEdge w).rst = false ∧ (hostEdge w).host = some w ∧
    word w = .ok (.hostReadStatus 0#2 0#32) ∧ w.getLsbD 40 = false ∧
    word x = .ok (.hostW1cStatus 0#2 0x100#32) ∧ x.getLsbD 40 = true ∧ (hostEdge x).resets = false ∧
    word y = .ok (.hostSrst 0#2 1#32) ∧ y.getLsbD 40 = true ∧ (hostEdge y).resets = true := by decide

/-- A row to run in F1, BODY among them, a row whose tag the decoder rejects, and the end of the rows. -/
theorem witness_StepRunsTheDecodedWireRow :
    let s : State := { captured f1 with dec := some ⟨4, [.srcAddr, .control], Rec.zero⟩ }
    s.dec = some ⟨4, [.srcAddr, .control], Rec.zero⟩ ∧
    decode (.wire .srcAddr) (s.window 4 (wireSize .srcAddr (s.window 4 2))) = .ok (.srcAddr 0x0883#16) ∧
    (Instr.srcAddr 0x0883#16).wf = true ∧
    decode (.wire .body) [0x02#8, 0x09#8] = .ok .variant9 ∧
    ({ captured f1 with dec := some ⟨31, [.count], Rec.zero⟩ } : State).wireInstr ⟨31, [.count], Rec.zero⟩ .count =
      .count 0x01#8 0x06#8 ∧
    decode (.wire .count) [0x01#8, 0x06#8] = .error .tagMismatch ∧ (inFrame 40 40).dec = some ⟨40, [], Rec.zero⟩ := by
  decide +kernel

/-- A capture with its first two bytes written meets the invariant. -/
theorem captureOk_capturing : (capturing .len 0xA0#8 2#12 0#12).CaptureOk := by
  refine ⟨rfl, rfl, fun _ => .inl rfl, fun _ => ⟨rfl, ⟨rfl, rfl⟩, ?_⟩, by simp [capturing], by simp [capturing, State.reset]⟩
  intro a ha
  obtain rfl | rfl : a = 0 ∨ a = 1 := by omega
  · rfl
  · rfl

theorem witness_StepKeepsTheCaptureInOrder : (capturing .len 0xA0#8 2#12 0#12).CaptureOk := captureOk_capturing

theorem witness_StepKeepsTheLawOfTheCounters :
    let s : State := { State.reset with cntCap := 4#32, cntOk := 1#32, cntFmt := 1#32, cntVar := 1#32, phase := .decode }
    s.CountersAgree ∧ ∃ t, step s = .next t := ⟨⟨rfl, by decide⟩, _, rfl⟩

theorem witness_StepKeepsTheHaltedCodeInOrder :
    let s : State := { State.reset with phase := .halted, serrCode := 1#2, err := ⟨3#3, 1#3, 0#5, 0#12, 0#8⟩ }
    s.HaltedAgrees ∧ ∃ t, step s = .next t := ⟨⟨rfl, by decide, by decide⟩, _, rfl⟩

theorem witness_StepKeepsTheRecordShaped : State.reset.RecordShaped ∧ ∃ t, step State.reset = .next t :=
  ⟨⟨rfl, .inl rfl⟩, _, rfl⟩

/-- The length byte of a capture changes the byte at index 2; a start candidate changes those at 0 and 1. -/
theorem witness_BufferIsWrittenOnlyByTheCapture :
    let s : State := facing (byteEdge 0x26#8) { capturing .len 0xA0#8 2#12 0#12 with
      fb := [(0, 0x7E#8), (1, 0xA0#8), (2, 0x11#8)] }
    let u : State := facing (byteEdge 0xAF#8) { State.reset with win := 0x7E#8, fb := [(0, 0x00#8), (1, 0x00#8)] }
    (s.dec = none ∧ ∃ t, step s = .next t ∧ fbRead t.fb 2 ≠ fbRead s.fb 2) ∧
    (u.dec = none ∧ ∃ t, step u = .next t ∧ fbRead t.fb 0 ≠ fbRead u.fb 0 ∧ fbRead t.fb 1 ≠ fbRead u.fb 1) :=
  ⟨⟨rfl, _, rfl, by decide⟩, rfl, _, rfl, by decide, by decide⟩

theorem witness_StaleBytesDoNotInfluenceTheBlock :
    let s := capturing .len 0xA0#8 2#12 0#12
    let s' : State := { s with fb := [(0, 0x7E#8), (1, 0xA0#8), (7, 0x22#8)] }
    s.CaptureOk ∧ SameButStale s s' ∧ s ≠ s' :=
  ⟨captureOk_capturing, ⟨rfl, rfl, by decide⟩, by decide⟩

theorem witness_NoiseIsSkipped :
    let noise : List Byte := [0x7E#8, 0x55#8, 0x7E#8, 0x7E#8]
    let s : State := { State.reset with edges := noise.map byteEdge ++ [Edge.idle] }
    s.dec = none ∧ s.inReady = true ∧ s.sync = .seek ∧ noise ≠ [] ∧ noCandidate s.win noise = true ∧
    s.edges = noise.map byteEdge ++ [Edge.idle] := by decide

/-- The smallest capture with a body byte, and the smallest capture of all. -/
theorem witness_FrameOnTheStreamIsCaptured :
    let frame : List Byte := [0x7E#8, 0xA8#8, 0x02#8, 0x7E#8]
    let s : State := { State.reset with win := 0x7E#8, edges := frame.map byteEdge ++ [] }
    s.dec = none ∧ s.inReady = true ∧ s.sync = .seek ∧ byteAt frame 0 = 0x7E#8 ∧
    (byteAt frame 1).extractLsb' 4 4 = 0xA#4 ∧
    frame.length = captureSize (frameLength (byteAt frame 1) (byteAt frame 2)) ∧
    s.edges = frame.map byteEdge ++ [] ∧
    [0x7E#8, 0xA0#8, 0x00#8].length = captureSize (frameLength 0xA0#8 0x00#8) := by decide

theorem witness_DecodeReadsBackEveryEncoding :
    (Instr.itemText .meterType 0x09#8 2#8 [0x41#8, 0x42#8]).wf = true ∧ (Instr.hostSrst 3#2 1#32).wf = true := by decide

theorem witness_EveryTokenAndHostWordIsOneInstruction :
    decodeToken .body 0x00#8 1#12 0x07E#10 = .ok (.bodyLast 0x7E#8) ∧
    decodeToken .body 0x00#8 0#12 0x07E#10 = .error .bodyNothingDue := by decide

end Sys2Proof.Tests
end

