-- ==== Sys2Proof/Proofs/BlockStep.lean ====
section
/-! PROOFS. The block's step at an edge, one equation for each row that may be enabled, and O47. -/

namespace Sys2Proof.Machine

/-! ### The block's step, by phase (10_state.md R20) -/

section

variable {e : Edge} {s : State}

/-- A pending cancel outranks whatever token is offered (60_exceptions.md R133 item 5). -/
theorem blockStep_cancel (hp : s.phase = .sync) (hc : s.cancelPending = true) :
    blockStep e s = if e.internal then exec .cancelTake s else .next s := by
  cases hi : e.internal <;> simp [blockStep, blockInstr, hp, hc, hi]

theorem blockStep_noToken (hr : s.inReady = true) (ht : e.token = none) : blockStep e s = .next s := by
  obtain ⟨hp, hc⟩ := (inReady_iff s).mp hr
  simp [blockStep, blockInstr, hp, hc, ht]

theorem blockStep_token {k : Token} {i : Instr} (hr : s.inReady = true) (ht : e.token = some k)
    (hk : decodeToken s.sync s.win s.rem k = .ok i) : blockStep e s = exec i s := by
  obtain ⟨hp, hc⟩ := (inReady_iff s).mp hr
  simp [blockStep, blockInstr, hp, hc, ht, hk]

theorem blockStep_decode (hp : s.phase = .decode) :
    blockStep e s = if e.internal then exec .decodeStep s else .next s := by
  cases hi : e.internal <;> simp [blockStep, blockInstr, hp, hi]

theorem blockStep_handshake {i : Instr} (hp : s.phase = .emit) (hk : decodeSink (1#1 ++ e.sink) = .ok i) :
    blockStep e s = exec i s := by
  simp [blockStep, blockInstr, hp, hk]

theorem blockStep_noHandshake {r : Reject} (hp : s.phase = .emit) (hk : decodeSink (1#1 ++ e.sink) = .error r) :
    blockStep e s = .next s := by
  simp [blockStep, blockInstr, hp, hk]

theorem blockStep_halted (hp : s.phase = .halted) : blockStep e s = .next s := by
  simp [blockStep, blockInstr, hp]

end

/-! ### The ports' words -/

/-- The token's bytes at the input port spell the row that the synchronizer's registers select. -/
theorem decode_tokenPort (s : State) (k : Token) :
    decode s.tokenPort (bytesToken k) = decodeToken s.sync s.win s.rem k := by
  simpa only [State.tokenPort, List.append_nil] using decode_bytesToken s.sync s.win s.rem k []

/-- While `out_valid = 1`, the handshake's byte spells the row of the sink's two pins. -/
theorem decode_sink_pins (k : BitVec 2) : decode .sink [0b000001#6 ++ k] = decodeSink (1#1 ++ k) := by
  revert k; decide

/-- With `out_ready = 0` there is no handshake, whatever `out_fail` is (10_state.md R15). -/
theorem decodeSink_notReady {k : BitVec 2} (hk : k.getLsbD 1 = false) : decodeSink (1#1 ++ k) = .error .noHandshake := by
  revert k; decide

/-! ### The step with nothing but the block's row at its edge -/

theorem hostTurn_noAccess {e : Edge} (hh : e.host = none) : hostTurn e = .idle := by
  simp only [hostTurn, hh]

theorem step_eq_blockStep {s : State} (hd : s.dec = none) (hr : s.nextEdge.rst = false) (hh : s.nextEdge.host = none) :
    step s = blockStep s.nextEdge s.atEdge := by
  simp only [step, hd, edgeStep, hr, hostTurn_noAccess hh, Bool.false_eq_true, if_false]

/-- Settles O47: the step is the block's step, and `blockStep` has an equation for each phase and what its port carries. -/
theorem stepRunsTheDecodedBlockRow : Obligations.StepRunsTheDecodedBlockRow := by
  intro s hd hr hh
  rw [step_eq_blockStep hd hr hh]
  refine ⟨rfl, ?token, ?noToken, ?cancel, ?decode, ?handshake, ?noHandshake, ?halted⟩
  case token =>
    intro k i hready ht hk _
    rw [decode_tokenPort] at hk
    exact blockStep_token hready ht hk
  case noToken => exact fun hready ht => blockStep_noToken hready ht
  case cancel => exact fun hp hc => blockStep_cancel hp hc
  case decode => exact fun hp => blockStep_decode hp
  case handshake =>
    intro i hp hk _
    rw [decode_sink_pins] at hk
    exact blockStep_handshake hp hk
  case noHandshake => exact fun hp hk => blockStep_noHandshake hp (decodeSink_notReady hk)
  case halted => exact fun hp => blockStep_halted hp

end Sys2Proof.Machine
end

