-- ==== Sys2Proof/Proofs/RecordShape.lean ====
section
/-! PROOFS. What reading a frame's places does to the record: one mask bit a field, every field not read as it was; so a decode
answers a record of one of the five variants, and O27. -/

namespace Sys2Proof.Machine

/-! ### One field of the record written -/

/-- Every field of a record but `f` is as it was: the mask, the count, the variant and the body fields. -/
structure Rec.SameBut (f : Field) (r r' : Rec) : Prop where
  mask : r'.mask = r.mask
  count : r'.count = r.count
  variant : r'.variant = r.variant
  text : ∀ g, textField g ≠ f → r'.text g = r.text g
  u32 : ∀ g, u32Field g ≠ f → r'.u32 g = r.u32 g
  s32 : ∀ g, s32Field g ≠ f → r'.s32 g = r.s32 g
  ets : Field.eTs ≠ f → r'.ets = r.ets

theorem Rec.text_setText (r : Rec) (f g : TextField) (t : TextRef) :
    (r.setText f t).text g = if g = f then t else r.text g := by
  cases f <;> cases g <;> rfl

theorem Rec.u32_setU32 (r : Rec) (f g : U32Field) (v : Word32) :
    (r.setU32 f v).u32 g = if g = f then v else r.u32 g := by
  cases f <;> cases g <;> rfl

theorem Rec.s32_setS32 (r : Rec) (f g : S32Field) (v : Word32) :
    (r.setS32 f v).s32 g = if g = f then v else r.s32 g := by
  cases f <;> cases g <;> rfl

theorem Rec.sameBut_setText (f : TextField) (t : TextRef) (r : Rec) : Rec.SameBut (textField f) r (r.setText f t) where
  mask := by cases f <;> rfl
  count := by cases f <;> rfl
  variant := by cases f <;> rfl
  text g hg := by rw [Rec.text_setText, if_neg fun h => hg (congrArg _ h)]
  u32 _ _ := by cases f <;> rfl
  s32 _ _ := by cases f <;> rfl
  ets _ := by cases f <;> rfl

theorem Rec.sameBut_setU32 (f : U32Field) (v : Word32) (r : Rec) : Rec.SameBut (u32Field f) r (r.setU32 f v) where
  mask := by cases f <;> rfl
  count := by cases f <;> rfl
  variant := by cases f <;> rfl
  text _ _ := by cases f <;> rfl
  u32 g hg := by rw [Rec.u32_setU32, if_neg fun h => hg (congrArg _ h)]
  s32 _ _ := by cases f <;> rfl
  ets _ := by cases f <;> rfl

theorem Rec.sameBut_setS32 (f : S32Field) (v : Word32) (r : Rec) : Rec.SameBut (s32Field f) r (r.setS32 f v) where
  mask := by cases f <;> rfl
  count := by cases f <;> rfl
  variant := by cases f <;> rfl
  text _ _ := by cases f <;> rfl
  u32 _ _ := by cases f <;> rfl
  s32 g hg := by rw [Rec.s32_setS32, if_neg fun h => hg (congrArg _ h)]
  ets _ := by cases f <;> rfl

theorem Rec.sameBut_ets (t : Timestamp) (r : Rec) : Rec.SameBut .eTs r { r with ets := t } :=
  ⟨rfl, rfl, rfl, fun _ _ => rfl, fun _ _ => rfl, fun _ _ => rfl, fun h => absurd rfl h⟩

/-- The header, Meta, message timestamp and FCS are no body fields. -/
theorem Rec.sameBut_frameFields (f : Field) (r : Rec) (hdr : HdrRec) (link : LinkRec) (ts : Timestamp) (fcs : BitVec 16) :
    Rec.SameBut f r { r with hdr := hdr, link := link, ts := ts, fcs := fcs } :=
  ⟨rfl, rfl, rfl, fun _ _ => rfl, fun _ _ => rfl, fun _ _ => rfl, fun _ => rfl⟩

/-! ### Mask bits -/

theorem Rec.has_mark_self (f : Field) (r : Rec) : (r.mark f).has f = true := by
  have hlt : (fieldId f).toNat < 32 := (fieldId f).isLt
  simp [Rec.has, Rec.mark, maskBit, hlt]

/-- Reading a field takes no bit away. -/
theorem Rec.has_of_mark {f g : Field} {r : Rec} (h : (r.mark f).has g = false) : r.has g = false := by
  simp only [Rec.has, Rec.mark, BitVec.getLsbD_or, Bool.or_eq_false_iff] at h
  exact h.1

theorem Rec.ne_of_has_mark {f g : Field} {r : Rec} (h : (r.mark f).has g = false) : g ≠ f := by
  rintro rfl
  simp [Rec.has_mark_self] at h

/-- A field written and marked leaves 0 in every body field still not marked. -/
theorem Rec.AbsentZero.read {f : Field} {r r' : Rec} (h : r.AbsentZero) (hs : r.SameBut f r') : (r'.mark f).AbsentZero := by
  obtain ⟨htext, hu32, hs32, hets⟩ := h
  have unmarked {g : Field} (hg : (r'.mark f).has g = false) : r.has g = false := by
    have := Rec.has_of_mark hg
    rwa [Rec.has, hs.mask] at this
  exact ⟨fun g hg => (hs.text g (Rec.ne_of_has_mark hg)).trans (htext g (unmarked hg)),
    fun g hg => (hs.u32 g (Rec.ne_of_has_mark hg)).trans (hu32 g (unmarked hg)),
    fun g hg => (hs.s32 g (Rec.ne_of_has_mark hg)).trans (hs32 g (unmarked hg)),
    fun hg => (hs.ets (Rec.ne_of_has_mark hg)).trans (hets (unmarked hg))⟩

/-! ### A list of fields read into a record -/

/-- The mask with the bits of a list of fields set. -/
def markAll (fs : List Field) (m : BitVec 32) : BitVec 32 := fs.foldl (fun m f => m ||| maskBit f) m

/-- `r'` is `r` with a list of fields read into it: their mask bits set, count and variant as they were, and still 0 in every
body field whose bit is not set. -/
structure Rec.Reads (fs : List Field) (r r' : Rec) : Prop where
  mask : r'.mask = markAll fs r.mask
  count : r'.count = r.count
  variant : r'.variant = r.variant
  absentZero : r.AbsentZero → r'.AbsentZero

theorem Rec.Reads.nil (r : Rec) : r.Reads [] r := ⟨rfl, rfl, rfl, id⟩

theorem Rec.Reads.append {fs gs : List Field} {r r' r'' : Rec} (h : r.Reads fs r') (h' : r'.Reads gs r'') :
    r.Reads (fs ++ gs) r'' where
  mask := by rw [h'.mask, h.mask, markAll, markAll, markAll, List.foldl_append]
  count := h'.count.trans h.count
  variant := h'.variant.trans h.variant
  absentZero := h'.absentZero ∘ h.absentZero

theorem Rec.SameBut.reads {f : Field} {r r' : Rec} (h : r.SameBut f r') : r.Reads [f] (r'.mark f) where
  mask := congrArg (· ||| maskBit f) h.mask
  count := h.count
  variant := h.variant
  absentZero hr := hr.read h

theorem readField_reads {n k : Nat} {f : Field} {put : Rec → Rec} {d d1 : Dec} (hput : ∀ r, Rec.SameBut f r (put r))
    (h : readField n k f put d = .ok d1) : d.record.Reads [f] d1.record := by
  obtain ⟨-, rfl⟩ := readField_ok.mp h
  exact (hput _).reads

theorem readTimestamp_reads {n : Nat} {tag : Byte} {f : Field} {put : Rec → Rec} {d d1 : Dec}
    (hput : ∀ r, Rec.SameBut f r (put r)) (h : readTimestamp n tag f put d = .ok d1) : d.record.Reads [f] d1.record := by
  obtain ⟨-, -, rfl⟩ := readTimestamp_ok.mp h
  exact (hput _).reads

/-- What is read after a tag is read into the record as it was before the tag. -/
theorem reads_after_expect {n : Nat} {v b : Byte} {f : Field} {fs : List Field} {d d1 : Dec} {r : Rec}
    (h : expect n v b f d = .ok d1) (hr : d1.record.Reads fs r) : d.record.Reads fs r := by
  obtain ⟨-, -, rfl⟩ := expect_ok.mp h
  exact hr

/-! ### The places whose row reads one field -/

theorem readStartTag_reads {n : Nat} {tag : Byte} {d d1 : Dec} (h : readStartTag n tag d = .ok d1) :
    d.record.Reads [.startTag] d1.record := by
  unfold readStartTag at h
  split at h
  · cases h
  · rename_i he
    cases h
    exact reads_after_expect he (Rec.sameBut_frameFields _ _ _ _ _ _).reads

theorem readFrameInfo_reads {n : Nat} {format : BitVec 4} {sep : BitVec 1} {len : BitVec 11} {d d1 : Dec}
    (h : readFrameInfo n format sep len d = .ok d1) : d.record.Reads [.frameInfo] d1.record := by
  unfold readFrameInfo at h
  split at h
  · cases h
  · rename_i he
    split at h
    · cases h
      exact readField_reads (fun r => Rec.sameBut_frameFields _ r _ _ _ _) he
    · cases h

theorem readItemText_reads {n : Nat} {f : TextField} {tag k : Byte} {d d1 : Dec} (h : readItemText n f tag k d = .ok d1) :
    d.record.Reads [textField f] d1.record := by
  unfold readItemText at h
  split at h
  · cases h
  · rename_i d2 he
    split at h
    · cases h
    · exact reads_after_expect he (readField_reads (d := d2.advance 1) (Rec.sameBut_setText f _) h)

theorem readItemU32_reads {n : Nat} {f : U32Field} {tag : Byte} {v : Word32} {d d1 : Dec}
    (h : readItemU32 n f tag v d = .ok d1) : d.record.Reads [u32Field f] d1.record := by
  unfold readItemU32 at h
  split at h
  · cases h
  · rename_i he
    exact reads_after_expect he (readField_reads (Rec.sameBut_setU32 f v) h)

theorem readItemS32_reads {n : Nat} {f : S32Field} {tag : Byte} {v : Word32} {d d1 : Dec}
    (h : readItemS32 n f tag v d = .ok d1) : d.record.Reads [s32Field f] d1.record := by
  unfold readItemS32 at h
  split at h
  · cases h
  · rename_i he
    exact reads_after_expect he (readField_reads (Rec.sameBut_setS32 f v) h)

/-- The places whose row reads the one field `itemField` names: all but the item count, the body and the footer. -/
def readsOneField : Place → Bool
  | .count | .body | .footer => false
  | .startTag | .frameInfo | .destAddr | .srcAddr | .control | .hcs | .metaBlock | .msgTs | .text _ | .u32 _ | .s32 _
  | .eTs => true

theorem readWire_reads {s : State} {p : Place} {d d1 : Dec} (hp : readsOneField p = true)
    (h : readWire s (s.wireInstr d p) d = .ok d1) : d.record.Reads [itemField p] d1.record := by
  cases p with
  | startTag => exact readStartTag_reads h
  | frameInfo => exact readFrameInfo_reads h
  | destAddr | srcAddr | control | hcs | metaBlock =>
    exact readField_reads (fun r => Rec.sameBut_frameFields _ r _ _ _ _) h
  | msgTs => exact readTimestamp_reads (fun r => Rec.sameBut_frameFields _ r _ _ _ _) h
  | text f => exact readItemText_reads h
  | u32 f => exact readItemU32_reads h
  | s32 f => exact readItemS32_reads h
  | eTs => exact readTimestamp_reads (Rec.sameBut_ets _) h
  | count | body | footer => cases hp

theorem readPlaces_reads {s : State} {ps : List Place} {d d1 : Dec} (hps : ∀ p ∈ ps, readsOneField p = true)
    (h : readPlaces s ps d = .ok d1) : d.record.Reads (ps.map itemField) d1.record := by
  induction ps generalizing d with
  | nil => cases h; exact .nil _
  | cons p rest ih =>
    obtain ⟨d2, h2, hrest⟩ := readPlaces_cons_ok.mp h
    obtain ⟨hp, hrests⟩ := List.forall_mem_cons.mp hps
    exact (readWire_reads hp h2).append (ih hrests hrest)

theorem readPlaces_append_ok {s : State} {ps qs : List Place} {d d2 : Dec} :
    readPlaces s (ps ++ qs) d = .ok d2 ↔ ∃ d1, readPlaces s ps d = .ok d1 ∧ readPlaces s qs d1 = .ok d2 := by
  induction ps generalizing d with
  | nil => simp [readPlaces]
  | cons p rest ih => simp only [List.cons_append, readPlaces_cons_ok, ih]; grind

/-! ### The body -/

/-- The places whose row is an item. -/
def isItemPlace : Place → Bool
  | .text _ | .u32 _ | .s32 _ | .eTs => true
  | .startTag | .frameInfo | .destAddr | .srcAddr | .control | .hcs | .metaBlock | .msgTs | .count | .body | .footer => false

theorem readsOneField_of_isItemPlace {p : Place} (h : isItemPlace p = true) : readsOneField p = true := by
  cases p with
  | text | u32 | s32 | eTs => rfl
  | startTag | frameInfo | destAddr | srcAddr | control | hcs | metaBlock | msgTs | count | body | footer => cases h

/-- In a body an item's row is read as it is anywhere. -/
theorem readItem_eq_readWire {s : State} {p : Place} (hp : isItemPlace p = true) (d : Dec) :
    readItem s.fbLen.toNat (s.wireInstr d p) d = readWire s (s.wireInstr d p) d := by
  cases p with
  | text | u32 | s32 | eTs => rfl
  | startTag | frameInfo | destAddr | srcAddr | control | hcs | metaBlock | msgTs | count | body | footer => cases hp

theorem readItems_eq_readPlaces {s : State} {ps : List Place} (hps : ∀ p ∈ ps, isItemPlace p = true) (d : Dec) :
    readItems s ps d = readPlaces s ps d := by
  induction ps generalizing d with
  | nil => rfl
  | cons p rest ih =>
    obtain ⟨hp, hrest⟩ := List.forall_mem_cons.mp hps
    simp only [readItems, readPlaces, readItem_eq_readWire hp]
    cases readWire s (s.wireInstr d p) d with
    | ok d1 => exact ih hrest d1
    | error e => rfl

/-- The five rows of `variantShape`: count, code, items and mask. -/
def variantRows : List (Byte × BitVec 3 × List Place × BitVec 32) :=
  [(1#8, 0#3, items1, 0x300023FE#32), (9#8, 1#3, items9, 0x3013FFFE#32), (13#8, 2#3, items13, 0x307FFFFE#32),
    (14#8, 3#3, items14, 0x3F93FFFE#32), (18#8, 4#3, items18, 0x3FFFFFFE#32)]

theorem mem_variantRows {n : Byte} {code : BitVec 3} {items : List Place} {mask : BitVec 32}
    (h : variantShape n = some (code, items, mask)) : (n, code, items, mask) ∈ variantRows := by
  unfold variantShape at h
  split_ifs at h <;> cases h <;> subst n <;> simp [variantRows]

theorem isItemPlace_of_variantShape {n : Byte} {code : BitVec 3} {items : List Place} {mask : BitVec 32}
    (h : variantShape n = some (code, items, mask)) : ∀ p ∈ items, isItemPlace p = true := by
  have rows : ∀ row ∈ variantRows, ∀ p ∈ row.2.2.1, isItemPlace p = true := by decide
  exact rows _ (mem_variantRows h)

/-- The variant row of a count that reads is one of the five, and reads its items under its code. -/
theorem readWire_variantOf_ok {s : State} {n : Byte} {d d1 : Dec} (h : readWire s (variantOf n) d = .ok d1) :
    ∃ code items mask, variantShape n = some (code, items, mask) ∧ readVariant s code items d = .ok d1 := by
  unfold variantOf at h
  unfold variantShape
  split_ifs at h ⊢
  · exact ⟨_, _, _, rfl, h⟩
  · exact ⟨_, _, _, rfl, h⟩
  · exact ⟨_, _, _, rfl, h⟩
  · exact ⟨_, _, _, rfl, h⟩
  · exact ⟨_, _, _, rfl, h⟩
  · cases h

theorem readVariant_reads {s : State} {n : Byte} {code : BitVec 3} {items : List Place} {mask : BitVec 32} {d d1 : Dec}
    (hn : variantShape n = some (code, items, mask)) (h : readVariant s code items d = .ok d1) :
    Rec.Reads (items.map itemField) { d.record with variant := code } d1.record := by
  have hi := isItemPlace_of_variantShape hn
  rw [readVariant, readItems_eq_readPlaces hi] at h
  exact readPlaces_reads (fun p hp => readsOneField_of_isItemPlace (hi p hp)) h

/-! ### The item count and the footer -/

theorem readCount_reads {n : Nat} {tag v : Byte} {d d1 : Dec} (h : readCount n tag v d = .ok d1) :
    Rec.Reads [.count] { d.record with count := v } d1.record := by
  unfold readCount at h
  split at h
  · cases h
  · rename_i he
    obtain ⟨-, -, rfl⟩ := expect_ok.mp he
    obtain ⟨-, rfl⟩ := readField_ok.mp h
    exact (Rec.sameBut_frameFields _ _ _ _ _ _).reads

theorem readFcsEndTag_reads {s : State} {fcs : BitVec 16} {tag : Byte} {d d1 : Dec}
    (h : readFcsEndTag s fcs tag d = .ok d1) : d.record.Reads [.fcs, .endTag] d1.record := by
  unfold readFcsEndTag at h
  split at h
  · cases h
  · rename_i hf
    have hfcs := readField_reads (fun r => Rec.sameBut_frameFields .fcs r _ _ _ fcs) hf
    split at h
    · cases h
    · rename_i he
      split at h
      · cases h
        exact hfcs.append (reads_after_expect he (Rec.sameBut_frameFields _ _ _ _ _ _).reads)
      · cases h

/-! ### The whole frame -/

/-- The places before the item count (41_decoder_frame.md R84). -/
def headerPlaces : List Place := [.startTag, .frameInfo, .destAddr, .srcAddr, .control, .hcs, .metaBlock, .msgTs]

theorem decodeOrder_eq : decodeOrder = headerPlaces ++ [.count, .body, .footer] := rfl

/-- The fields of a frame whose body has these items. -/
def frameFields (items : List Place) : List Field :=
  headerPlaces.map itemField ++ .count :: (items.map itemField ++ [.fcs, .endTag])

/-- The mask of each variant is the bits of its frame's fields (30_encoding.md R63). -/
theorem markAll_frameFields {n : Byte} {code : BitVec 3} {items : List Place} {mask : BitVec 32}
    (h : variantShape n = some (code, items, mask)) : markAll (frameFields items) 0#32 = mask := by
  have rows : ∀ row ∈ variantRows, markAll (frameFields row.2.2.1) 0#32 = row.2.2.2 := by decide
  have row := rows _ (mem_variantRows h)
  exact row

theorem Rec.zero_absentZero : Rec.zero.AbsentZero :=
  ⟨fun f _ => by cases f <;> rfl, fun f _ => by cases f <;> rfl, fun f _ => by cases f <;> rfl, fun _ => rfl⟩

/-- A record that a decode answers has its count's variant and mask, and 0 in every body field the variant lacks. -/
theorem decodeFrame_shape {s : State} {r : Rec} (h : s.decodeFrame = .ok r) :
    (∃ items, variantShape r.count = some (r.variant, items, r.mask)) ∧ r.AbsentZero := by
  obtain ⟨d4, hplaces, rfl⟩ := decodeFrame_ok.mp h
  rw [decodeOrder_eq] at hplaces
  obtain ⟨d1, hheader, hrest⟩ := readPlaces_append_ok.mp hplaces
  obtain ⟨d2, hcount, hrest⟩ := readPlaces_cons_ok.mp hrest
  obtain ⟨d3, hbody, hrest⟩ := readPlaces_cons_ok.mp hrest
  obtain ⟨d, hfooter, hnil⟩ := readPlaces_cons_ok.mp hrest
  cases hnil
  obtain ⟨code, items, mask, hshape, hbody⟩ := readWire_variantOf_ok hbody
  have rheader := readPlaces_reads (by decide) hheader
  have rcount := readCount_reads hcount
  have rbody := readVariant_reads hshape hbody
  have rfooter := readFcsEndTag_reads hfooter
  have hmask : d4.record.mask = mask := by
    rw [← markAll_frameFields hshape]
    simp only [frameFields, markAll, List.foldl_append, List.foldl_cons]
    rw [rfooter.mask, rbody.mask, rcount.mask, rheader.mask]
    rfl
  have hcount : d4.record.count = d2.record.count := rfooter.count.trans rbody.count
  have hvariant : d4.record.variant = code := rfooter.variant.trans rbody.variant
  refine ⟨⟨items, by rw [hcount, hvariant, hmask, hshape]⟩, ?_⟩
  exact rfooter.absentZero (rbody.absentZero (rcount.absentZero (rheader.absentZero Rec.zero_absentZero)))

/-- R106: the mask of a variant names as many body fields as the count says. -/
theorem bodyFields_eq_count {r : Rec} {code : BitVec 3} {items : List Place}
    (h : variantShape r.count = some (code, items, r.mask)) : r.bodyFields = r.count.toNat := by
  have rows : ∀ row ∈ variantRows,
      ((List.range 18).filter fun j => row.2.2.2.getLsbD (10 + j)).length = row.1.toNat := by decide
  have row := rows _ (mem_variantRows h)
  exact row

/-- Settles O27: the shape of a decoded record, and its mask's bits counted. -/
theorem decodedRecordHasItsVariantsFields : Obligations.DecodedRecordHasItsVariantsFields := by
  intro s r h
  obtain ⟨⟨items, hshape⟩, habsent⟩ := decodeFrame_shape h
  have row := List.mem_map_of_mem (f := fun row => (row.1, row.2.1, row.2.2.2)) (mem_variantRows hshape)
  exact ⟨row, bodyFields_eq_count hshape, habsent⟩

end Sys2Proof.Machine
end

