-- ==== Sys2Proof/Proofs/StepFrame.lean ====
section
/-! PROOFS. What the host can touch at an edge, and what the block's step does to the registers of 10_state.md, once for each
register; O36, O52 and O53 follow. -/

namespace Sys2Proof.Machine

/-! ### The host's share of an edge -/

/-- Between decode steps a step is one clock edge (10_state.md R12). -/
theorem step_eq_edgeStep {s : State} (hd : s.dec = none) : step s = edgeStep s.nextEdge s.atEdge := by
  simp only [step, hd]

theorem step_cons {s : State} (hd : s.dec = none) (e : Edge) (es : List Edge) :
    step { s with edges := e :: es } =
      edgeStep e { s with edges := es, out := ⟨none, none, e.sbAddr.map s.sbData⟩ } :=
  step_eq_edgeStep (s := { s with edges := e :: es }) hd

/-- `t` is `u` but for what a host write reaches: the pending cancel, the sticky flags and `FB_ADDR` (44_host_interface.md R117). -/
def SameButHost (u t : State) : Prop :=
  t = { u with
    cancelPending := t.cancelPending, fmtSeen := t.fmtSeen, varSeen := t.varSeen, sinkSeen := t.sinkSeen
    fbAddr := t.fbAddr }

theorem HostWrite.sameButHost {i : Instr} {u t : State} (w : HostWrite i u t) : SameButHost u t.keepRaised := by
  cases w <;> rfl

/-- The state the block's step of an edge begins in: the edge taken, and the answer of a host read shown. -/
def State.blockEntry (s : State) (answer : Option Word32) : State :=
  { s with edges := s.edges.tail, out := ⟨none, answer, s.nextEdge.sbAddr.map s.sbData⟩ }

@[simp] theorem State.blockEntry_decodeFrame (s : State) (answer : Option Word32) :
    (s.blockEntry answer).decodeFrame = s.decodeFrame := decodeFrame_congr rfl rfl

/-- A step without reset is a move of the block, to which the host adds what its write reaches. -/
theorem step_blockMove {s t : State} (hd : s.dec = none) (hr : s.nextEdge.resets = false) (h : step s = .next t) :
    ∃ answer u, BlockMove s.nextEdge (s.blockEntry answer) u ∧ SameButHost u t := by
  cases step_move hd h with
  | reset h' => simp [h'] at hr
  | idle _ _ _ m => exact ⟨none, t, m, rfl⟩
  | read _ v _ _ _ m => exact ⟨some v, t, m, rfl⟩
  | write _ u t' _ _ m w => exact ⟨none, u, m, w.sameButHost⟩

/-- A step that resets leaves the reset state, with `FB`, the pins to come and the sink's read port as they are. -/
theorem step_reset {s t : State} (hd : s.dec = none) (hr : s.nextEdge.resets = true) (h : step s = .next t) :
    t = s.atEdge.softReset := by
  cases step_move hd h with
  | reset _ => rfl
  | idle _ h' _ _ | read _ _ _ h' _ _ | write _ _ _ h' _ _ _ => simp [h'] at hr

/-! ### What the block's move does to each register -/

section

variable {e : Edge} {s t : State}

/-- Only a decode that succeeds writes `REC` (10_state.md R32). -/
theorem BlockMove.record (m : BlockMove e s t) :
    (s.phase = .decode ∧ t.phase = .emit ∧ s.decodeFrame = .ok t.record) ∨
    (¬(s.phase = .decode ∧ t.phase = .emit) ∧ t.record = s.record) := by
  cases m with
  | decodeOk r hp _ hd => exact .inl ⟨hp, rfl, hd⟩
  | _ => right; simp_all [inReady_iff]

/-- No move of the block begins or leaves open a decode step (log entry 2). -/
theorem BlockMove.dec (m : BlockMove e s t) (hd : s.dec = none) : t.dec = none := by
  cases m <;> simp [hd]

/-- The block ends a run by a stream error and by nothing else, and nothing else writes `serr_code` (10_state.md R28). -/
theorem BlockMove.halts (m : BlockMove e s t) :
    (s.phase = .sync ∧ ∃ r, t = s.streamError r) ∨ (s.phase = .halted ∧ t = s) ∨
    (s.phase ≠ .halted ∧ t.phase ≠ .halted ∧ t.serrCode = s.serrCode) := by
  cases m with
  | eos _ hr _ | ioerr _ hr _ => exact .inl ⟨((inReady_iff s).mp hr).1, _, rfl⟩
  | cancelTake hp _ _ => exact .inl ⟨hp, _, rfl⟩
  | wait _ => by_cases hp : s.phase = .halted <;> simp [hp]
  | _ => right; right; simp_all [inReady_iff]

/-- Nothing in a hand-over writes `FB` (20_memory.md R40). -/
theorem BlockMove.fb_of_emit (m : BlockMove e s t) (hp : s.phase = .emit) : t.fb = s.fb := by
  cases m <;> simp_all [inReady_iff]

theorem BlockMove.sbData (m : BlockMove e s t) : t.out.sbData = s.out.sbData := by
  cases m <;> rfl

theorem BlockMove.cancelPending (m : BlockMove e s t) : t.cancelPending = s.cancelPending := by
  cases m <;> rfl

end

/-! ### `REC` -/

/-- Settles O36. -/
theorem recordIsWrittenOnlyByADecode : Obligations.RecordIsWrittenOnlyByADecode := by
  intro s t hd hr h
  obtain ⟨answer, u, m, ht⟩ := step_blockMove hd hr h
  rw [ht]
  have hrec := m.record
  rw [State.blockEntry_decodeFrame] at hrec
  refine ⟨fun hpp => ?_, fun hpp => ?_⟩
  · obtain ⟨-, -, hdf⟩ | ⟨hn, -⟩ := hrec
    · exact hdf
    · exact absurd hpp hn
  · obtain ⟨hp, hp', -⟩ | ⟨-, hkept⟩ := hrec
    · exact absurd ⟨hp, hp'⟩ hpp
    · exact hkept

theorem step_dec {s t : State} (hd : s.dec = none) (h : step s = .next t) : t.dec = none := by
  cases hr : s.nextEdge.resets with
  | true => rw [step_reset hd hr h]; rfl
  | false =>
    obtain ⟨answer, u, m, ht⟩ := step_blockMove hd hr h
    have hu : u.dec = none := m.dec hd
    rw [ht]
    exact hu

/-- Settles O53: a decode writes a record of one of the five variants, a reset 0, and nothing else writes `REC`. -/
theorem stepKeepsTheRecordShaped : Obligations.StepKeepsTheRecordShaped := by
  rintro s t ⟨hd, hshape⟩ h
  refine ⟨step_dec hd h, ?_⟩
  cases hr : s.nextEdge.resets with
  | true => rw [step_reset hd hr h]; exact .inl rfl
  | false =>
    obtain ⟨hdecode, hkept⟩ := recordIsWrittenOnlyByADecode s t hd hr h
    by_cases hpp : s.phase = .decode ∧ t.phase = .emit
    · exact .inr (decodeFrame_shape (hdecode hpp))
    · rw [hkept hpp]; exact hshape

/-! ### `serr_code` -/

theorem StreamReason.code_ne_zero (r : StreamReason) : r.code ≠ 0#2 := by
  cases r <;> decide

/-- Settles O52: the phase and `serr_code` move together, in the stream error that also writes the last-error registers. -/
theorem stepKeepsTheHaltedCodeInOrder : Obligations.StepKeepsTheHaltedCodeInOrder := by
  rintro s t ⟨hd, hcode, hlast⟩ h
  refine ⟨step_dec hd h, ?_⟩
  cases hr : s.nextEdge.resets with
  | true => rw [step_reset hd hr h]; simp [State.reset]
  | false =>
    obtain ⟨answer, u, m, ht⟩ := step_blockMove hd hr h
    rw [ht]
    obtain ⟨-, r, rfl⟩ | ⟨-, rfl⟩ | ⟨hp, hp', hserr⟩ := m.halts
    · simp [Err.record, r.code_ne_zero]
    · exact ⟨hcode, hlast⟩
    · have hzero : s.serrCode = 0#2 := not_not.mp (mt hcode.mpr hp)
      simp only [hp', hserr, false_iff, not_not, false_implies, and_true]
      exact hzero

end Sys2Proof.Machine
end

