-- ==== Sys2Proof/Proofs/ErrorRegisters.lean ====
section
/-! PROOFS. Which errors a decode reports, and the registers an error writes, which agree with the log port of the edge; O39. -/

namespace Sys2Proof.Machine

/-! ### The kind of an error's record (60_exceptions.md R128) -/

theorem Err.kind_eq_one (x : Err) : (x.record.kind == 1#3) = x.isFormat := by cases x <;> rfl

theorem Err.kind_eq_two (x : Err) : (x.record.kind == 2#3) = x.isVariant := by cases x <;> rfl

theorem Err.kind_eq_four (x : Err) : (x.record.kind == 4#3) = x.isSink := by cases x <;> rfl

theorem Err.kind_of_isFormat {x : Err} (h : x.isFormat = true) : x.record.kind = 1#3 := by
  rwa [← Err.kind_eq_one, beq_iff_eq] at h

theorem Err.kind_of_isVariant {x : Err} (h : x.isVariant = true) : x.record.kind = 2#3 := by
  rwa [← Err.kind_eq_two, beq_iff_eq] at h

theorem raisedNow_of_log_none {s : State} (h : s.out.log = none) (kind : BitVec 3) : s.raisedNow kind = false := by
  simp [State.raisedNow, h]

theorem raisedNow_of_log_some {s : State} {r : ErrRec} (h : s.out.log = some r) (kind : BitVec 3) :
    s.raisedNow kind = (r.kind == kind) := by
  simp [State.raisedNow, h]

/-! ### The errors of a decode are FormatErrors and UnsupportedVariantErrors -/

/-- A FormatError or an UnsupportedVariantError: an error of one frame, which does not end the run (43_reader_loop.md R108). -/
def Err.perFrame (x : Err) : Bool := x.isFormat || x.isVariant

section

variable {n : Nat} {f : Field} {d : Dec} {x : Err}

theorem perFrame_of_need {k : Nat} (h : need n k f d = .error x) : x.perFrame = true := by
  obtain ⟨-, rfl⟩ := need_error.mp h
  rfl

theorem perFrame_of_expect {v b : Byte} (h : expect n v b f d = .error x) : x.perFrame = true := by
  obtain ⟨-, rfl⟩ | ⟨-, -, rfl⟩ := expect_error.mp h <;> rfl

theorem perFrame_of_readField {k : Nat} {put : Rec → Rec} (h : readField n k f put d = .error x) : x.perFrame = true := by
  obtain ⟨-, rfl⟩ := readField_error.mp h
  rfl

theorem perFrame_of_readTimestamp {tag : Byte} {put : Rec → Rec} (h : readTimestamp n tag f put d = .error x) :
    x.perFrame = true := by
  unfold readTimestamp at h
  split at h
  · cases h; exact perFrame_of_expect ‹_›
  · exact perFrame_of_readField h

end

section

variable {n : Nat} {d : Dec} {x : Err}

theorem perFrame_of_readStartTag {tag : Byte} (h : readStartTag n tag d = .error x) : x.perFrame = true := by
  unfold readStartTag at h
  split at h
  · cases h; exact perFrame_of_expect ‹_›
  · cases h

theorem perFrame_of_readFrameInfo {format : BitVec 4} {sep : BitVec 1} {len : BitVec 11}
    (h : readFrameInfo n format sep len d = .error x) : x.perFrame = true := by
  unfold readFrameInfo at h
  split at h
  · cases h; exact perFrame_of_readField ‹_›
  · split at h
    · cases h
    · cases h; rfl

theorem perFrame_of_readCount {tag v : Byte} (h : readCount n tag v d = .error x) : x.perFrame = true := by
  unfold readCount at h
  split at h
  · cases h; exact perFrame_of_expect ‹_›
  · exact perFrame_of_readField h

theorem perFrame_of_readItemText {g : TextField} {tag k : Byte} (h : readItemText n g tag k d = .error x) :
    x.perFrame = true := by
  unfold readItemText at h
  split at h
  · cases h; exact perFrame_of_expect ‹_›
  · split at h
    · cases h; exact perFrame_of_need ‹_›
    · exact perFrame_of_readField h

theorem perFrame_of_readItemU32 {g : U32Field} {tag : Byte} {v : Word32} (h : readItemU32 n g tag v d = .error x) :
    x.perFrame = true := by
  unfold readItemU32 at h
  split at h
  · cases h; exact perFrame_of_expect ‹_›
  · exact perFrame_of_readField h

theorem perFrame_of_readItemS32 {g : S32Field} {tag : Byte} {v : Word32} (h : readItemS32 n g tag v d = .error x) :
    x.perFrame = true := by
  unfold readItemS32 at h
  split at h
  · cases h; exact perFrame_of_expect ‹_›
  · exact perFrame_of_readField h

theorem perFrame_of_readItem {i : Instr} (h : readItem n i d = .error x) : x.perFrame = true := by
  cases i with
  | itemText => exact perFrame_of_readItemText h
  | itemU32 => exact perFrame_of_readItemU32 h
  | itemS32 => exact perFrame_of_readItemS32 h
  | itemETs => exact perFrame_of_readTimestamp h
  | _ => cases h

theorem perFrame_of_readItems {s : State} {ps : List Place} (h : readItems s ps d = .error x) : x.perFrame = true := by
  induction ps generalizing d with
  | nil => cases h
  | cons p rest ih =>
    unfold readItems at h
    split at h
    · exact ih h
    · cases h; exact perFrame_of_readItem ‹_›

theorem perFrame_of_readFcsEndTag {s : State} {fcs : BitVec 16} {tag : Byte} (h : readFcsEndTag s fcs tag d = .error x) :
    x.perFrame = true := by
  unfold readFcsEndTag at h
  split at h
  · cases h; exact perFrame_of_readField ‹_›
  · split at h
    · cases h; exact perFrame_of_expect ‹_›
    · split at h
      · cases h
      · cases h; rfl

theorem perFrame_of_readWire {s : State} {i : Instr} (h : readWire s i d = .error x) : x.perFrame = true := by
  cases i with
  | startTag => exact perFrame_of_readStartTag h
  | frameInfo => exact perFrame_of_readFrameInfo h
  | destAddr | srcAddr | control | hcs | metaBlock => unfold readWire at h; exact perFrame_of_readField h
  | msgTs | itemETs => exact perFrame_of_readTimestamp h
  | count => exact perFrame_of_readCount h
  | variant1 | variant9 | variant13 | variant14 | variant18 => exact perFrame_of_readItems h
  | variantUnsupported => cases h; rfl
  | itemText => exact perFrame_of_readItemText h
  | itemU32 => exact perFrame_of_readItemU32 h
  | itemS32 => exact perFrame_of_readItemS32 h
  | fcsEndTag => exact perFrame_of_readFcsEndTag h
  | _ => cases h

theorem perFrame_of_readPlaces {s : State} {ps : List Place} (h : readPlaces s ps d = .error x) : x.perFrame = true := by
  induction ps generalizing d with
  | nil => cases h
  | cons p rest ih =>
    unfold readPlaces at h
    split at h
    · exact ih h
    · cases h; exact perFrame_of_readWire ‹_›

/-- A decode reports no stream error and no error of the sink. -/
theorem decodeFrame_error_kind {s : State} (h : s.decodeFrame = .error x) : x.record.kind = 1#3 ∨ x.record.kind = 2#3 :=
  (Bool.or_eq_true_iff.mp (perFrame_of_readPlaces (decodeFrame_error.mp h))).imp Err.kind_of_isFormat Err.kind_of_isVariant

end

/-! ### An error's registers -/

/-- From `s` to `t` the last-error registers, the sticky flags and the two error counters move by the error that `t`'s log port
shows, and by none where it shows none (60_exceptions.md R131). -/
def ErrorsNoted (s t : State) : Prop :=
  t.err = t.out.log.getD s.err ∧
  t.fmtSeen = (t.raisedNow 1#3 || s.fmtSeen) ∧
  t.varSeen = (t.raisedNow 2#3 || s.varSeen) ∧
  t.sinkSeen = (t.raisedNow 4#3 || s.sinkSeen) ∧
  t.cntFmt = s.cntFmt + tick (t.raisedNow 1#3) ∧
  t.cntVar = s.cntVar + tick (t.raisedNow 2#3)

theorem errorsNoted_raise (x : Err) (s : State) : ErrorsNoted s (s.raise x) := by
  have raised (kind : BitVec 3) : (s.raise x).raisedNow kind = (x.record.kind == kind) := raisedNow_of_log_some rfl kind
  simp [ErrorsNoted, raised, Err.kind_eq_one, Err.kind_eq_two, Err.kind_eq_four, Bool.or_comm]

theorem errorsNoted_refl {s : State} (hlog : s.out.log = none) : ErrorsNoted s s := by
  simp [ErrorsNoted, hlog, raisedNow_of_log_none hlog, tick]

/-- The block's move notes its error, at an edge whose log port was empty before it. -/
theorem BlockMove.errorsNoted {e : Edge} {s t : State} (m : BlockMove e s t) (hlog : s.out.log = none) :
    ErrorsNoted s t := by
  cases m with
  | eos | ioerr | cancelTake => exact errorsNoted_raise (.stream _ s.sync s.wp) s
  | decodeErr x => exact errorsNoted_raise x s
  | sinkFail => exact errorsNoted_raise .sink s
  | _ => exact errorsNoted_refl hlog

/-- The block's move logs a record exactly where it raises an error, of the kind that its phase raises (10_state.md R17). -/
theorem BlockMove.log {e : Edge} {s t : State} (m : BlockMove e s t) (hlog : s.out.log = none) :
    (s.phase = .sync ∧ t.phase = .halted ∧ ∃ r, t.out.log = some r ∧ r.kind = 3#3) ∨
    (s.phase = .decode ∧ t.phase = .sync ∧ ∃ r, t.out.log = some r ∧ (r.kind = 1#3 ∨ r.kind = 2#3)) ∨
    (s.phase = .emit ∧ e.sink = 0b11#2 ∧ ∃ r, t.out.log = some r ∧ r.kind = 4#3) ∨
    (t.out.log = none ∧ ¬(s.phase = .sync ∧ t.phase = .halted) ∧ ¬(s.phase = .decode ∧ t.phase = .sync) ∧
      ¬(s.phase = .emit ∧ e.sink = 0b11#2)) := by
  cases m with
  | eos _ hr _ | ioerr _ hr _ => exact .inl ⟨((inReady_iff s).mp hr).1, rfl, _, rfl, rfl⟩
  | cancelTake hp _ _ => exact .inl ⟨hp, rfl, _, rfl, rfl⟩
  | decodeErr x hp _ hd => exact .inr (.inl ⟨hp, rfl, _, rfl, decodeFrame_error_kind hd⟩)
  | sinkFail hp hk => exact .inr (.inr (.inl ⟨hp, hk, _, rfl, rfl⟩))
  | wait hw =>
    right; right; right
    obtain ⟨hp, -⟩ | ⟨hr, -⟩ | ⟨hp, -⟩ | ⟨hp, hk⟩ | hp := hw
    · simp [hlog, hp]
    · simp [hlog, ((inReady_iff s).mp hr).1]
    · simp [hlog, hp]
    · refine ⟨hlog, by simp [hp], by simp [hp], fun h11 => ?_⟩
      simp [h11.2] at hk
    · simp [hlog, hp]
  | _ => right; right; right; simp_all [inReady_iff]

/-- Settles O39. -/
theorem logPulsesExactlyWithAnError : Obligations.LogPulsesExactlyWithAnError := by
  intro s t hd h
  cases hr : s.nextEdge.resets with
  | true =>
    rw [step_reset hd hr h]
    simp [State.reset, ErrRec.zero, Out.zero]
  | false =>
    obtain ⟨answer, u, m, ht⟩ := step_blockMove hd hr h
    obtain ⟨herr, -⟩ := m.errorsNoted rfl
    have hlog := m.log rfl
    rw [ht]
    refine ⟨by simp, fun _ => herr, fun _ => ?_, fun r hlogr => ?_⟩
    · obtain ⟨hp, hp', r, hl, -⟩ | ⟨hp, hp', r, hl, -⟩ | ⟨hp, hk, r, hl, -⟩ | ⟨hl, h1, h2, h3⟩ := hlog
      · exact ⟨fun _ => .inl ⟨hp, hp'⟩, fun _ => by simp [hl]⟩
      · exact ⟨fun _ => .inr (.inl ⟨hp, hp'⟩), fun _ => by simp [hl]⟩
      · exact ⟨fun _ => .inr (.inr ⟨hp, hk⟩), fun _ => by simp [hl]⟩
      · exact ⟨fun hl' => absurd hl hl', by rintro (h | h | h); exacts [absurd h h1, absurd h h2, absurd h h3]⟩
    · obtain ⟨hp, hp', r', hl, hk⟩ | ⟨hp, hp', r', hl, hk⟩ | ⟨hp, -, r', hl, hk⟩ | ⟨hl, -⟩ := hlog
      · cases hl.symm.trans hlogr
        simp [hk, show s.phase = .sync from hp]
      · cases hl.symm.trans hlogr
        obtain hk | hk := hk <;> simp [hk, show s.phase = .decode from hp]
      · cases hl.symm.trans hlogr
        simp [hk, show s.phase = .emit from hp]
      · cases hl.symm.trans hlogr

end Sys2Proof.Machine
end

