-- ==== Sys2Proof/Proofs/CountersAndFlags.lean ====
section
/-! PROOFS. The six counters and the three sticky flags, by the event of each; O37 and O38. -/

namespace Sys2Proof.Machine

/-! ### The counters (10_state.md R31) -/

/-- A byte is offered at an edge: the token's EOS and IOERR bits are 0 (30_encoding.md R49). -/
def Edge.offersByte (e : Edge) : Bool := e.token.any fun k => k.extractLsb' 8 2 == 0b00#2

theorem offersByte_of_byte {e : Edge} {b : Byte} (h : e.token = some (0b00#2 ++ b)) : e.offersByte = true := by
  have hk : (0b00#2 ++ b : Token).extractLsb' 8 2 = 0b00#2 := BitVec.extractLsb'_append_eq_left
  simp [Edge.offersByte, h, hk]

theorem offersByte_of_eos {e : Edge} {b : Byte} (h : e.token = some (0b01#2 ++ b)) : e.offersByte = false := by
  have hk : (0b01#2 ++ b : Token).extractLsb' 8 2 = 0b01#2 := BitVec.extractLsb'_append_eq_left
  simp [Edge.offersByte, h, hk]

theorem offersByte_of_ioerr {e : Edge} {x : BitVec 9} (h : e.token = some (0b1#1 ++ x)) : e.offersByte = false := by
  have hbit : ((0b1#1 ++ x : Token).extractLsb' 8 2).getLsbD 1 = true := by
    rw [BitVec.getLsbD_extractLsb', getLsbD_join19]; rfl
  have hk : (0b1#1 ++ x : Token).extractLsb' 8 2 ≠ 0b00#2 := by
    intro h0
    simp [h0] at hbit
  simp [Edge.offersByte, h, hk]

section

variable {e : Edge} {s t : State}

/-- `cnt_seek` counts the bytes consumed in SEEK. -/
theorem BlockMove.cntSeek (m : BlockMove e s t) :
    t.cntSeek = s.cntSeek + tick (s.inReady && s.sync == .seek && e.offersByte) := by
  cases m with
  | seekByte b hr ht hs _ | seekStart b hr ht hs _ => simp [tick, hr, hs, offersByte_of_byte ht]
  | eos b _ ht => simp [tick, offersByte_of_eos ht]
  | ioerr x _ ht => simp [tick, offersByte_of_ioerr ht]
  | lenBody _ _ _ hs _ | lenDone _ _ _ hs _ | bodyByte _ _ _ hs _ _ | bodyLast _ _ _ hs _ _ => simp [tick, hs]
  | cancelTake _ hc _ => simp [tick, State.inReady, hc]
  | decodeOk _ hp _ _ | decodeErr _ hp _ _ | sinkAck hp _ | sinkFail hp _ => simp [tick, State.inReady, hp]
  | wait hw =>
    obtain ⟨-, hc, -⟩ | ⟨-, ht⟩ | ⟨hp, -⟩ | ⟨hp, -⟩ | hp := hw
    · simp [tick, State.inReady, hc]
    · simp [tick, Edge.offersByte, ht]
    · simp [tick, State.inReady, hp]
    · simp [tick, State.inReady, hp]
    · simp [tick, State.inReady, hp]

/-- `cnt_cap` counts the captures completed. -/
theorem BlockMove.cntCap (m : BlockMove e s t) :
    t.cntCap = s.cntCap + tick (s.phase == .sync && t.phase == .decode) := by
  cases m with
  | lenDone _ hr _ _ _ | bodyLast _ hr _ _ _ _ => simp [tick, ((inReady_iff s).mp hr).1]
  | wait _ => cases s.phase <;> simp [tick]
  | _ => simp_all [tick, inReady_iff]

/-- `cnt_ok` counts the decodes that succeed. -/
theorem BlockMove.cntOk (m : BlockMove e s t) :
    t.cntOk = s.cntOk + tick (s.phase == .decode && t.phase == .emit) := by
  cases m with
  | decodeOk _ hp _ _ => simp [tick, hp]
  | wait _ => cases s.phase <;> simp [tick]
  | _ => simp_all [tick, inReady_iff]

/-- `cnt_sinkfail` counts the handshakes with `out_fail = 1`. -/
theorem BlockMove.cntSinkFail (m : BlockMove e s t) :
    t.cntSinkFail = s.cntSinkFail + tick (s.phase == .emit && e.sink == 0b11#2) := by
  cases m with
  | sinkFail hp hk => simp [tick, hp, hk]
  | wait hw =>
    obtain ⟨hp, -⟩ | ⟨hr, -⟩ | ⟨hp, -⟩ | ⟨-, hk⟩ | hp := hw
    · simp [tick, hp]
    · simp [tick, ((inReady_iff s).mp hr).1]
    · simp [tick, hp]
    · have hne : e.sink ≠ 0b11#2 := by
        intro h11
        simp [h11] at hk
      simp [tick, hne]
    · simp [tick, hp]
  | _ => simp_all [tick, inReady_iff]

end

/-- Settles O37: each counter's event, by the block's moves. -/
theorem countersCountTheirEvents : Obligations.CountersCountTheirEvents := by
  intro s t hd h
  cases hr : s.nextEdge.resets with
  | true =>
    rw [step_reset hd hr h]
    simp [State.reset]
  | false =>
    obtain ⟨answer, u, m, ht⟩ := step_blockMove hd hr h
    obtain ⟨-, -, -, -, hfmt, hvar⟩ := m.errorsNoted rfl
    have hseek : u.cntSeek = s.cntSeek + tick (s.inReady && s.sync == .seek && s.nextEdge.offersByte) := m.cntSeek
    rw [ht]
    refine ⟨by simp, fun _ => ⟨?_, m.cntCap, m.cntOk, hfmt, hvar, m.cntSinkFail⟩⟩
    cases hk : s.nextEdge.token <;> simpa [Edge.offersByte, hk] using hseek

/-! ### The sticky flags (10_state.md R30) -/

/-- The STATUS bits that the host writes 1 at an edge (44_host_interface.md R121). -/
def Edge.clears (e : Edge) (j : Nat) : Bool :=
  match hostTurn e with
  | .write (.hostW1cStatus _ w) => w.getLsbD j
  | _ => false

/-- A host write clears the flags it writes 1, but for those that the block's step of the edge set (44_host_interface.md R116,
exception 1). -/
theorem HostWrite.flags {e : Edge} {i : Instr} {u t : State} (hh : hostTurn e = .write i) (w : HostWrite i u t) :
    t.keepRaised.fmtSeen = ((u.fmtSeen && !e.clears 8) || u.raisedNow 1#3) ∧
    t.keepRaised.varSeen = ((u.varSeen && !e.clears 9) || u.raisedNow 2#3) ∧
    t.keepRaised.sinkSeen = ((u.sinkSeen && !e.clears 10) || u.raisedNow 4#3) := by
  unfold Edge.clears
  rw [hh]
  cases w with
  | w1c => exact ⟨rfl, rfl, rfl⟩
  | cancel | cancelHalted | fbAddr | ignored => simp [State.raisedNow]

/-- A flag just raised outlives the clear that shares its edge. -/
theorem flag_kept (raised seen clear : Bool) : (((raised || seen) && !clear) || raised) = (raised || (seen && !clear)) := by
  cases raised <;> simp

/-- The sticky flags after a step without reset, by what the block's move and the host's write leave of them. -/
theorem step_flags {s t : State} (hd : s.dec = none) (hr : s.nextEdge.resets = false) (h : step s = .next t) :
    t.fmtSeen = (t.raisedNow 1#3 || (s.fmtSeen && !s.nextEdge.clears 8)) ∧
    t.varSeen = (t.raisedNow 2#3 || (s.varSeen && !s.nextEdge.clears 9)) ∧
    t.sinkSeen = (t.raisedNow 4#3 || (s.sinkSeen && !s.nextEdge.clears 10)) := by
  cases step_move hd h with
  | reset h' => simp [h'] at hr
  | idle _ _ hh m | read _ _ _ _ hh m =>
    obtain ⟨-, hfmt, hvar, hsink, -, -⟩ := m.errorsNoted rfl
    simp [Edge.clears, hh, hfmt, hvar, hsink]
  | write i u t' _ hh m w =>
    obtain ⟨-, hfmt, hvar, hsink, -, -⟩ := m.errorsNoted rfl
    obtain ⟨hf, hv, hs⟩ := w.flags hh
    have raised (kind : BitVec 3) : t'.keepRaised.raisedNow kind = u.raisedNow kind := by
      have hout : t'.keepRaised.out = u.out := by rw [w.sameButHost]
      rw [State.raisedNow, State.raisedNow, hout]
    rw [hf, hv, hs, hfmt, hvar, hsink, raised, raised, raised]
    simp only [State.atEdge_fmtSeen, State.atEdge_varSeen, State.atEdge_sinkSeen]
    exact ⟨flag_kept _ _ _, flag_kept _ _ _, flag_kept _ _ _⟩

/-- Settles O38. -/
theorem stickyFlagsAreSetAndClearedAsStated : Obligations.StickyFlagsAreSetAndClearedAsStated := by
  intro s t hd h
  cases hr : s.nextEdge.resets with
  | true =>
    rw [step_reset hd hr h]
    simp [State.reset]
  | false => exact ⟨by simp, fun _ => step_flags hd hr h⟩

end Sys2Proof.Machine
end

