-- ==== Sys2Proof/Proofs/Ports.lean ====
section
/-! PROOFS. The pins around the registers: reset, the pending cancel, the token that is not taken, and the sink's read port; O1,
O3, O10, O40 and O46. -/

namespace Sys2Proof.Machine

/-! ### Reset (10_state.md R36) -/

/-- Settles O1: the registers of a soft reset are those of `State.reset`, field by field. -/
theorem resetLeavesEveryRegisterAtItsValue : Obligations.ResetLeavesEveryRegisterAtItsValue := by
  rintro t (rfl | ⟨s, rfl⟩) <;> and_intros <;> rfl

theorem reset_captureOk : State.reset.CaptureOk := by
  refine ⟨rfl, reset_wf, ?_, ?_, ?_, ?_⟩ <;> simp [State.reset]

theorem reset_haltedAgrees : State.reset.HaltedAgrees := by
  refine ⟨rfl, ?_, ?_⟩ <;> simp [State.reset]

/-- Settles O3. -/
theorem resetMeetsEveryInvariant : Obligations.ResetMeetsEveryInvariant :=
  ⟨reset_captureOk, ⟨rfl, rfl⟩, reset_haltedAgrees, ⟨rfl, .inl rfl⟩, reset_wf⟩

/-! ### The pending cancel (10_state.md R27) -/

/-- Settles O40: no move of the block writes `cancel_pending`, and of the host's writes only CTRL.CANCEL outside HALTED. -/
theorem cancelStaysPendingUntilReset : Obligations.CancelStaysPendingUntilReset := by
  intro s t hd hr h
  cases step_move hd h with
  | reset h' => simp [h'] at hr
  | idle _ _ hh m | read _ _ _ _ hh m =>
    have hc : t.cancelPending = s.cancelPending := m.cancelPending
    simp [hc, hh]
  | write i u t' _ hh m w =>
    have hc : u.cancelPending = s.cancelPending := m.cancelPending
    rw [hh]
    cases w with
    | cancel lo w _ hp => simp [hp]
    | cancelHalted lo w _ hp => simp [hp, hc]
    | w1c | fbAddr | ignored => simp [hc]

/-! ### The token that is not taken (10_state.md R13) -/

theorem blockStep_ignores_token {s : State} (hr : s.inReady = false) (e : Edge) (k : Option Token) :
    blockStep { e with token := k } s = blockStep e s := by
  cases hp : s.phase with
  | sync =>
    have hc : s.cancelPending = true := by simpa [State.inReady, hp] using hr
    rw [blockStep_cancel hp hc, blockStep_cancel hp hc]
  | decode => rw [blockStep_decode hp, blockStep_decode hp]
  | emit => simp only [blockStep, blockInstr, hp]
  | halted => rw [blockStep_halted hp, blockStep_halted hp]

/-- An edge's token reaches the block's step alone, which ignores it where `in_ready = 0`. -/
theorem edgeStep_ignores_token {s : State} (hr : s.inReady = false) (e : Edge) (k : Option Token) :
    edgeStep { e with token := k } s = edgeStep e s := by
  have hturn : hostTurn { e with token := k } = hostTurn e := rfl
  simp only [edgeStep, hturn, blockStep_ignores_token hr]
  cases hh : hostTurn e with
  | read i =>
    obtain ⟨v, hv⟩ := exec_hostTurn_read hh s
    have hr' : (s.hostReply v).inReady = false := hr
    simp only [hv, andThen_of_next, blockStep_ignores_token hr']
  | idle | write | srst => rfl

/-- Settles O10. -/
theorem tokenIsTakenOnlyWhenReady : Obligations.TokenIsTakenOnlyWhenReady := by
  refine ⟨inReady_iff, fun s e es k hd hr => ?_⟩
  have ignored (k : Option Token) : step { s with edges := { e with token := k } :: es } =
      edgeStep e { s with edges := es, out := ⟨none, none, e.sbAddr.map s.sbData⟩ } := by
    rw [step_cons hd]
    exact edgeStep_ignores_token (s := { s with edges := es, out := ⟨none, none, e.sbAddr.map s.sbData⟩ }) hr e k
  rw [ignored, ignored]

/-! ### The sink's read port (10_state.md R16) -/

/-- The state with another byte, or none, at the sink's read port. -/
def State.withSbData (v : Option Byte) (s : State) : State := { s with out := { s.out with sbData := v } }

@[simp] theorem State.withSbData_decodeFrame (v : Option Byte) (s : State) :
    (s.withSbData v).decodeFrame = s.decodeFrame := decodeFrame_congr rfl rfl

/-- Every move of the block is what its step does: the converse of `blockStep_move`. -/
theorem BlockMove.blockStep {e : Edge} {s t : State} (m : BlockMove e s t) : blockStep e s = .next t := by
  cases m with
  | wait hw =>
    obtain ⟨hp, hc, hi⟩ | ⟨hr, ht⟩ | ⟨hp, hi⟩ | ⟨hp, hk⟩ | hp := hw
    · rw [blockStep_cancel hp hc, hi]; rfl
    · exact blockStep_noToken hr ht
    · rw [blockStep_decode hp, hi]; rfl
    · exact blockStep_noHandshake hp (decodeSink_notReady hk)
    · exact blockStep_halted hp
  | seekByte b hr ht hs hc =>
    rw [blockStep_token hr ht (i := .seekByte b) (by simp [decodeToken_byte, hs, hc])]
    simp [exec, execSeekByte, hr, hs, hc]
  | seekStart b hr ht hs hc =>
    rw [blockStep_token hr ht (i := .seekStart b) (by simp [decodeToken_byte, hs, hc])]
    simp [exec, execSeekStart, hr, hs, hc]
  | lenBody b hr ht hs hd =>
    rw [blockStep_token hr ht (i := .lenByte b) (by simp [decodeToken_byte, hs])]
    simp [exec, execLenByte, hr, hs, hd]
  | lenDone b hr ht hs hd =>
    rw [blockStep_token hr ht (i := .lenByte b) (by simp [decodeToken_byte, hs])]
    simp [exec, execLenByte, hr, hs, hd]
  | bodyByte b hr ht hs hm hw =>
    have h0 : s.rem ≠ 0#12 := by rintro h; simp [h] at hm
    have h1 : s.rem ≠ 1#12 := by rintro h; simp [h] at hm
    rw [blockStep_token hr ht (i := .bodyByte b) (by simp [decodeToken_byte, hs, h0, h1])]
    simp [exec, execBodyByte, hr, hs, hm, State.storeByte, hw]
  | bodyLast b hr ht hs hm hw =>
    rw [blockStep_token hr ht (i := .bodyLast b) (by simp [decodeToken_byte, hs, hm])]
    simp [exec, execBodyLast, hr, hs, hm, State.storeByte, hw]
  | eos b hr ht =>
    rw [blockStep_token hr ht (decodeToken_eos _ _ _ b)]
    simp [exec, execStreamEos, hr]
  | ioerr x hr ht =>
    rw [blockStep_token hr ht (decodeToken_ioerr _ _ _ x)]
    simp [exec, execStreamIoerr, hr]
  | cancelTake hp hc hi =>
    rw [blockStep_cancel hp hc, hi]
    simp [exec, execCancelTake, hp, hc]
  | decodeOk r hp hi hd =>
    rw [blockStep_decode hp, hi]
    simp [exec, execDecodeStep, hp, hd]
  | decodeErr x hp hi hd =>
    rw [blockStep_decode hp, hi]
    simp [exec, execDecodeStep, hp, hd]
  | sinkAck hp hk =>
    rw [blockStep_handshake (i := .sinkAck) hp (by rw [decodeSink_pins, hk]; rfl)]
    simp [exec, execSinkAck, hp]
  | sinkFail hp hk =>
    rw [blockStep_handshake (i := .sinkFail) hp (by rw [decodeSink_pins, hk]; rfl)]
    simp [exec, execSinkFail, hp]

/-- The block neither sees where the sink looks nor what it is shown. -/
theorem BlockMove.withSbData {e : Edge} {s t : State} (m : BlockMove e s t) (a : Option FbIndex) (v : Option Byte) :
    BlockMove { e with sbAddr := a } (s.withSbData v) (t.withSbData v) := by
  cases m with
  | wait hw => exact .wait hw
  | seekByte b hr ht hs hc => exact .seekByte b hr ht hs hc
  | seekStart b hr ht hs hc => exact .seekStart b hr ht hs hc
  | lenBody b hr ht hs hd => exact .lenBody b hr ht hs hd
  | lenDone b hr ht hs hd => exact .lenDone b hr ht hs hd
  | bodyByte b hr ht hs hm hw => exact .bodyByte b hr ht hs hm hw
  | bodyLast b hr ht hs hm hw => exact .bodyLast b hr ht hs hm hw
  | eos b hr ht => exact .eos b hr ht
  | ioerr x hr ht => exact .ioerr x hr ht
  | cancelTake hp hc hi => exact .cancelTake hp hc hi
  | decodeOk r hp hi hd => exact .decodeOk r hp hi ((s.withSbData_decodeFrame v).trans hd)
  | decodeErr x hp hi hd => exact .decodeErr x hp hi ((s.withSbData_decodeFrame v).trans hd)
  | sinkAck hp hk => exact .sinkAck hp hk
  | sinkFail hp hk => exact .sinkFail hp hk

theorem blockStep_withSbData {e : Edge} {s t : State} (h : blockStep e s = .next t) (a : Option FbIndex)
    (v : Option Byte) : blockStep { e with sbAddr := a } (s.withSbData v) = .next (t.withSbData v) :=
  ((blockStep_move h).withSbData a v).blockStep

/-- A host read answers the same word whatever the sink's read port shows. -/
theorem exec_decodeHostRead_withSbData (addr : Byte) (w : Word32) (s : State) (v : Option Byte) :
    ∃ r, exec (decodeHostRead addr w) s = .next (s.hostReply r) ∧
      exec (decodeHostRead addr w) (s.withSbData v) = .next ((s.hostReply r).withSbData v) := by
  unfold decodeHostRead
  iterate 13
    refine row_of_ite (P := fun i => ∃ r, exec i s = .next (s.hostReply r) ∧
      exec i (s.withSbData v) = .next ((s.hostReply r).withSbData v)) ⟨_, rfl, rfl⟩ ?_
  exact ⟨_, rfl, rfl⟩

theorem exec_hostTurn_read_withSbData {e : Edge} {i : Instr} (h : hostTurn e = .read i) (s : State) (v : Option Byte) :
    ∃ r, exec i s = .next (s.hostReply r) ∧ exec i (s.withSbData v) = .next ((s.hostReply r).withSbData v) := by
  unfold hostTurn at h
  split at h
  · cases h
  · split at h
    · split at h <;> cases h
    · rename_i w hw
      cases h
      simp only [decodeHost, hw, Bool.false_eq_true, if_false]
      exact exec_decodeHostRead_withSbData _ _ s v

/-- A host write does the same whatever the sink's read port shows. -/
theorem HostWrite.exec_withSbData {i : Instr} {u t : State} (w : HostWrite i u t) (v : Option Byte) :
    exec i (u.withSbData v) = .next (t.withSbData v) := by
  cases w with
  | cancel lo w _ hp => exact if_neg hp
  | cancelHalted lo w _ hp => exact if_pos hp
  | w1c | fbAddr | ignored => rfl

/-- The port has no side effect on anything that shares its edge. -/
theorem edgeStep_withSbData {e : Edge} {s t : State} (h : edgeStep e s = .next t) (a : Option FbIndex)
    (v : Option Byte) : edgeStep { e with sbAddr := a } (s.withSbData v) = .next (t.withSbData v) := by
  have hturn : hostTurn { e with sbAddr := a } = hostTurn e := rfl
  simp only [edgeStep, hturn] at h ⊢
  by_cases hrst : e.rst = true
  · rw [if_pos hrst] at h ⊢
    cases h
    rfl
  · rw [if_neg hrst] at h ⊢
    cases hh : hostTurn e with
    | idle =>
      simp only [hh] at h ⊢
      exact blockStep_withSbData h a v
    | read i =>
      simp only [hh] at h ⊢
      obtain ⟨r, hr, hr'⟩ := exec_hostTurn_read_withSbData hh s v
      rw [hr, andThen_of_next] at h
      rw [hr', andThen_of_next]
      exact blockStep_withSbData h a v
    | write i =>
      simp only [hh] at h ⊢
      obtain ⟨u, hu, h⟩ := andThen_next.mp h
      obtain ⟨x, hx, w⟩ := exec_hostTurn_write hh u
      rw [hx, andThen_of_next] at h
      cases h
      rw [blockStep_withSbData hu a v, andThen_of_next, w.exec_withSbData v, andThen_of_next]
      rfl
    | srst i =>
      obtain ⟨lo, w, rfl⟩ := hostTurn_srst hh
      simp only [hh] at h ⊢
      cases h
      rfl

/-- FB[a] for an index the buffer has, 0x00 above (20_memory.md R39). -/
theorem sbData_eq (s : State) (a : FbIndex) : s.sbData a = if a.toNat ≤ 2048 then fbRead s.fb a.toNat else 0x00#8 := by
  split
  · rfl
  · rename_i h
    exact fbRead_of_le (Nat.not_le.mp h) s.fb

theorem step_sbData {s t : State} (hd : s.dec = none) (h : step s = .next t) :
    t.out.sbData = s.nextEdge.sbAddr.map s.sbData := by
  cases hr : s.nextEdge.resets with
  | true => rw [step_reset hd hr h]; rfl
  | false =>
    obtain ⟨answer, u, m, ht⟩ := step_blockMove hd hr h
    have hu : u.out.sbData = s.nextEdge.sbAddr.map s.sbData := m.sbData
    rw [ht]
    exact hu

theorem step_fb_of_emit {s t : State} (hd : s.dec = none) (hp : s.phase = .emit) (h : step s = .next t) :
    t.fb = s.fb := by
  cases hr : s.nextEdge.resets with
  | true => rw [step_reset hd hr h]; rfl
  | false =>
    obtain ⟨answer, u, m, ht⟩ := step_blockMove hd hr h
    have hu : u.fb = s.fb := m.fb_of_emit hp
    rw [ht]
    exact hu

/-- Settles O46. -/
theorem sinkReadPortShowsTheBuffer : Obligations.SinkReadPortShowsTheBuffer := by
  refine ⟨fun s t hd h => ?shown, fun s t e es a hd h => ?unseen, fun s t a hd hv h => ?held⟩
  case shown =>
    rw [step_sbData hd h]
    exact congrArg (s.nextEdge.sbAddr.map ·) (funext (sbData_eq s))
  case unseen =>
    rw [step_cons hd] at h ⊢
    exact ⟨some (s.sbData a), edgeStep_withSbData h (some a) (some (s.sbData a))⟩
  case held =>
    have hp : s.phase = .emit := by simpa [State.outValid] using hv
    rw [State.sbData, State.sbData, step_fb_of_emit hd hp h]

end Sys2Proof.Machine
end

