-- ==== Sys2Proof/Proofs/Buffer.lean ====
section
/-! PROOFS. What the block's step writes into `FB` and `FB_LEN`, and when; O54 and O33. -/

namespace Sys2Proof.Machine

/-! ### What the block's move does to the buffer (20_memory.md R38) -/

section

variable {e : Edge} {s t : State}

/-- A move of the block writes `FB` only where it takes a byte: the two bytes of a start, the length byte, or a body byte. -/
theorem BlockMove.fb (m : BlockMove e s t) :
    t.fb = s.fb ∨
    s.inReady = true ∧ ∃ b, e.token = some (byteToken b) ∧
      ((s.sync = .seek ∧ startCandidate s.win b = true ∧
          t.fb = Memory.write (Memory.write s.fb 0 Config.startTag) 1 b) ∨
        (s.sync = .len ∧ t.fb = Memory.write s.fb 2 b) ∨
        (s.sync = .body ∧ s.wp.toNat < Config.fbBytes ∧ t.fb = Memory.write s.fb s.wp.toNat b)) := by
  cases m with
  | seekStart b hr ht hs hc => exact .inr ⟨hr, b, ht, .inl ⟨hs, hc, rfl⟩⟩
  | lenBody b hr ht hs _ | lenDone b hr ht hs _ => exact .inr ⟨hr, b, ht, .inr (.inl ⟨hs, rfl⟩)⟩
  | bodyByte b hr ht hs _ hw | bodyLast b hr ht hs _ hw => exact .inr ⟨hr, b, ht, .inr (.inr ⟨hs, hw, rfl⟩)⟩
  | _ => exact .inl rfl

/-- `FB_LEN` is written where a capture completes, out of SYNC (10_state.md R26). -/
theorem BlockMove.fbLen_of_ne_sync (m : BlockMove e s t) (hp : s.phase ≠ .sync) : t.fbLen = s.fbLen := by
  cases m with
  | lenDone _ hr _ _ _ | bodyLast _ hr _ _ _ _ => exact absurd ((inReady_iff s).mp hr).1 hp
  | _ => rfl

end

/-- The start-candidate test, on the two bytes it reads (30_encoding.md R52). -/
theorem startCandidate_iff {prev cur : Byte} :
    startCandidate prev cur = true ↔ prev = Config.startTag ∧ cur.extractLsb' 4 4 = Config.formatNibble := by
  simp [startCandidate]

/-- A byte that a write changed stands at its index, which the buffer has. -/
theorem fbRead_write_of_ne {m : Memory} {i a : Nat} {v : Byte} (hi : i < Config.fbBytes)
    (h : fbRead (Memory.write m i v) a ≠ fbRead m a) : a = i ∧ fbRead (Memory.write m i v) a = v := by
  rw [fbRead_write hi] at h ⊢
  by_cases ha : i = a
  · simp [ha]
  · simp [ha] at h

/-- A byte of `FB` that a move of the block changed is the one the capture is at. -/
theorem BlockMove.fb_changed {e : Edge} {s t : State} {a : Nat} (m : BlockMove e s t)
    (hne : fbRead t.fb a ≠ fbRead s.fb a) :
    s.inReady = true ∧ ∃ b, e.token = some (byteToken b) ∧
      ((s.sync = .seek ∧ s.win = 0x7E#8 ∧ b.extractLsb' 4 4 = 0xA#4 ∧ a = 0 ∧ fbRead t.fb a = 0x7E#8) ∨
       (s.sync = .seek ∧ s.win = 0x7E#8 ∧ b.extractLsb' 4 4 = 0xA#4 ∧ a = 1 ∧ fbRead t.fb a = b) ∨
       (s.sync = .len ∧ a = 2 ∧ fbRead t.fb a = b) ∨
       (s.sync = .body ∧ a = s.wp.toNat ∧ fbRead t.fb a = b)) := by
  obtain hkept | ⟨hready, b, htok, hwrite⟩ := m.fb
  · exact absurd (congrArg (fbRead · a) hkept) hne
  · refine ⟨hready, b, htok, ?_⟩
    obtain ⟨hs, hc, hfb⟩ | ⟨hs, hfb⟩ | ⟨hs, hw, hfb⟩ := hwrite <;> rw [hfb] at hne ⊢
    · obtain ⟨hwin, hnib⟩ := startCandidate_iff.mp hc
      by_cases hsecond : fbRead (Memory.write (Memory.write s.fb 0 Config.startTag) 1 b) a =
          fbRead (Memory.write s.fb 0 Config.startTag) a
      · rw [hsecond] at hne ⊢
        obtain ⟨ha, hv⟩ := fbRead_write_of_ne (by decide) hne
        exact .inl ⟨hs, hwin, hnib, ha, hv⟩
      · obtain ⟨ha, hv⟩ := fbRead_write_of_ne (by decide) hsecond
        exact .inr (.inl ⟨hs, hwin, hnib, ha, hv⟩)
    · obtain ⟨ha, hv⟩ := fbRead_write_of_ne (by decide) hne
      exact .inr (.inr (.inl ⟨hs, ha, hv⟩))
    · obtain ⟨ha, hv⟩ := fbRead_write_of_ne hw hne
      exact .inr (.inr (.inr ⟨hs, ha, hv⟩))

/-- Settles O54: a reset leaves `FB` as it is, and the host's access does too. -/
theorem bufferIsWrittenOnlyByTheCapture : Obligations.BufferIsWrittenOnlyByTheCapture := by
  intro s t a hd h hne
  cases hr : s.nextEdge.resets with
  | true => exact absurd (by rw [step_reset hd hr h]; rfl) hne
  | false =>
    obtain ⟨answer, u, m, ht⟩ := step_blockMove hd hr h
    have hfb : t.fb = u.fb := by rw [ht]
    rw [hfb] at hne ⊢
    exact ⟨rfl, m.fb_changed hne⟩

/-- Settles O33: the block takes no byte in DECODE and EMIT, so by O54 it writes none. -/
theorem capturedFrameHoldsUntilTheHandOver : Obligations.CapturedFrameHoldsUntilTheHandOver := by
  intro s t hd hp h
  have hsync : s.phase ≠ .sync := by obtain hp | hp := hp <;> simp [hp]
  refine ⟨fun a => ?_, fun hr => ?_⟩
  · by_contra hne
    obtain ⟨-, hready, -⟩ := bufferIsWrittenOnlyByTheCapture s t a hd h hne
    exact hsync ((inReady_iff s).mp hready).1
  · obtain ⟨answer, u, m, ht⟩ := step_blockMove hd hr h
    have hu : u.fbLen = s.fbLen := m.fbLen_of_ne_sync hsync
    rw [ht]
    exact hu

end Sys2Proof.Machine
end

