-- ==== Sys2Proof/Proofs/CaptureOrder.lean ====
section
/-! PROOFS. Where the model stops, and that the capture registers and the buffer agree at every step, which then never stops;
O11 and O50. -/

namespace Sys2Proof.Machine

/-! ### The two stops (log entry 7) -/

theorem storeByte_of_lt {s : State} {i : FbIndex} (h : i.toNat < Config.fbBytes) (v : Byte) :
    s.storeByte i v = .ok { s with fb := Memory.write s.fb i.toNat v } := if_pos h

theorem storeByte_of_le {s : State} {i : FbIndex} (h : Config.fbBytes ≤ i.toNat) (v : Byte) :
    s.storeByte i v = .error (.fbOutOfRange i) := if_neg (Nat.not_lt.mpr h)

theorem exec_bodyByte_outOfRange {s : State} (hr : s.inReady = true) (hs : s.sync = .body) (hm : 1 < s.rem.toNat)
    (hw : 2048 < s.wp.toNat) (b : Byte) : exec (.bodyByte b) s = .fault (.fbOutOfRange s.wp) := by
  simp only [exec, execBodyByte, hr, hs, hm, and_self, if_true, storeByte_of_le hw]

theorem exec_bodyLast_outOfRange {s : State} (hr : s.inReady = true) (hs : s.sync = .body) (hm : s.rem = 1#12)
    (hw : 2048 < s.wp.toNat) (b : Byte) : exec (.bodyLast b) s = .fault (.fbOutOfRange s.wp) := by
  simp only [exec, execBodyLast, hr, hs, hm, and_self, if_true, storeByte_of_le hw]

/-- The rows whose index does not exist: a body byte taken with `wp` above 2048 (20_memory.md R37). -/
def StoresOutOfRange (i : Instr) (s : State) : Prop :=
  s.inReady = true ∧ s.sync = .body ∧ 2048 < s.wp.toNat ∧
    ∃ b, (i = .bodyByte b ∧ 1 < s.rem.toNat) ∨ (i = .bodyLast b ∧ s.rem = 1#12)

theorem exec_outOfRange {i : Instr} {s : State} (h : StoresOutOfRange i s) : exec i s = .fault (.fbOutOfRange s.wp) := by
  obtain ⟨hr, hs, hw, b, ⟨rfl, hm⟩ | ⟨rfl, hm⟩⟩ := h
  · exact exec_bodyByte_outOfRange hr hs hm hw b
  · exact exec_bodyLast_outOfRange hr hs hm hw b

theorem runDec_next (s : State) (f : Dec → Except Err Dec) : ∃ t, s.runDec f = .next t := by
  obtain ⟨-, h⟩ | ⟨_, _, -, -, h⟩ | ⟨_, _, -, -, h⟩ := runDec_cases s f <;> exact ⟨_, h⟩

theorem next_of_ite {c : Prop} [Decidable c] {r r' : Result} (hr : c → ∃ t, r = .next t) (hr' : ∃ t, r' = .next t) :
    ∃ t, (if c then r else r') = .next t := by
  split
  · exact hr ‹c›
  · exact hr'

/-- Every row goes on from every state, but for a body byte stored out of range. -/
theorem exec_next {i : Instr} {s : State} (h : ¬StoresOutOfRange i s) : ∃ t, exec i s = .next t := by
  have stay : ∃ t, Host.Outcome.next (φ := Fault) (ρ := Refusal) s = .next t := ⟨s, rfl⟩
  cases i with
  | bodyByte b =>
    refine next_of_ite (fun ⟨hr, hs, hm⟩ => ?_) stay
    have hw : s.wp.toNat < Config.fbBytes := Nat.lt_of_not_le fun hw => h ⟨hr, hs, hw, b, .inl ⟨rfl, hm⟩⟩
    rw [storeByte_of_lt hw]
    exact ⟨_, rfl⟩
  | bodyLast b =>
    refine next_of_ite (fun ⟨hr, hs, hm⟩ => ?_) stay
    have hw : s.wp.toNat < Config.fbBytes := Nat.lt_of_not_le fun hw => h ⟨hr, hs, hw, b, .inr ⟨rfl, hm⟩⟩
    rw [storeByte_of_lt hw]
    exact ⟨_, rfl⟩
  | lenByte => exact next_of_ite (fun _ => next_of_ite (fun _ => ⟨_, rfl⟩) ⟨_, rfl⟩) stay
  | decodeStep =>
    refine next_of_ite (fun _ => ?_) stay
    cases s.decodeFrame <;> exact ⟨_, rfl⟩
  | hostCancel => exact next_of_ite (fun _ => stay) ⟨_, rfl⟩
  | seekByte | seekStart | streamEos | streamIoerr | cancelTake | sinkAck | sinkFail =>
    exact next_of_ite (fun _ => ⟨_, rfl⟩) stay
  | startTag | frameInfo | destAddr | srcAddr | control | hcs | metaBlock | msgTs | count
  | variant1 | variant9 | variant13 | variant14 | variant18
  | itemText | itemU32 | itemS32 | itemETs | fcsEndTag => exact runDec_next s _
  | variantUnsupported n => exact runDec_next s (readVariantUnsupported n)
  | _ => exact ⟨_, rfl⟩

/-- Settles O11. -/
theorem stopsAreTheTwoNamedFaults : Obligations.StopsAreTheTwoNamedFaults := by
  refine ⟨fun s hp hc hs hw b => ?outOfRange, fun s b hd hr hs hm hrst hh ht => ?nothingDue, fun i s => ?noOther⟩
  case outOfRange =>
    have hr : s.inReady = true := (inReady_iff s).mpr ⟨hp, hc⟩
    exact ⟨fun hm => exec_bodyByte_outOfRange hr hs hm hw b, fun hm => exec_bodyLast_outOfRange hr hs hm hw b⟩
  case nothingDue =>
    obtain ⟨hp, hc⟩ := (inReady_iff s).mp hr
    have hrow : decodeToken .body s.win 0#12 (byteToken b) = .error .bodyNothingDue := decodeToken_byte ..
    rw [step_eq_blockStep hd hrst hh]
    simp [blockStep, blockInstr, hp, hc, hs, hm, ht, hrow]
  case noOther =>
    by_cases h : StoresOutOfRange i s
    · exact .inr ⟨exec_outOfRange h, h⟩
    · exact .inl (exec_next h)

/-! ### The capture in order never stops -/

/-- No row is named for a byte in BODY with nothing due, and for no other token (40_synchronizer.md R69). -/
theorem decodeToken_error {sync : SyncState} {win : Byte} {rem : FbIndex} {k : Token} {r : Reject}
    (h : decodeToken sync win rem k = .error r) : sync = .body ∧ rem = 0#12 := by
  unfold decodeToken at h
  grind

/-- While a capture is in order a body byte is due, and its index exists. -/
theorem State.CaptureOk.body_room {s : State} (h : s.CaptureOk) (hs : s.sync = .body) :
    1 ≤ s.rem.toNat ∧ s.wp.toNat ≤ 2048 := by
  obtain ⟨-, -, -, -, hbody, -⟩ := h
  obtain ⟨-, hrem, -, hsum, -⟩ := hbody hs
  have hlen : s.flen.toNat < 2048 := s.flen.isLt
  omega

theorem State.CaptureOk.blockStep_next {s : State} (h : s.CaptureOk) (e : Edge) : ∃ t, blockStep e s = .next t := by
  unfold blockStep
  cases hb : blockInstr e s with
  | error f =>
    obtain ⟨-, -, -, k, r, -, hk⟩ := blockInstr_error hb
    obtain ⟨hs, hrem⟩ := decodeToken_error hk
    have hdue := (h.body_room hs).1
    simp [hrem] at hdue
  | ok row =>
    cases row with
    | none => exact ⟨s, rfl⟩
    | some i => exact exec_next fun ⟨_, hs, hw, _⟩ => absurd (h.body_room hs).2 (Nat.not_le.mpr hw)

/-- A step goes on where the block's step does: the host's accesses and the resets never stop. -/
theorem step_next {s : State} (hd : s.dec = none)
    (hb : ∀ answer, ∃ u, blockStep s.nextEdge (s.blockEntry answer) = .next u) : ∃ t, step s = .next t := by
  rw [step_eq_edgeStep hd]
  refine next_of_ite (fun _ => ⟨_, rfl⟩) ?_
  cases hh : hostTurn s.nextEdge with
  | idle => exact hb none
  | read i =>
    obtain ⟨v, hv⟩ := exec_hostTurn_read hh s.atEdge
    simp only [hv, andThen_of_next]
    exact hb (some v)
  | write i =>
    obtain ⟨u, hu⟩ := hb none
    obtain ⟨t, ht, -⟩ := exec_hostTurn_write hh u
    have hu : blockStep s.nextEdge s.atEdge = .next u := hu
    simp only [hu, ht, andThen_of_next]
    exact ⟨_, rfl⟩
  | srst i =>
    obtain ⟨lo, w, rfl⟩ := hostTurn_srst hh
    exact ⟨_, rfl⟩

/-! ### The buffer of a capture, as bytes are written -/

section

variable {m : Memory} {n i : Nat} {b : Byte}

theorem writtenBelow.write (h : writtenBelow m n) (i : Nat) (b : Byte) : writtenBelow (Memory.write m i b) n := by
  intro a ha
  rw [Memory.read_write]
  split
  · rfl
  · exact h a ha

/-- The byte at the end of what is written extends it. -/
theorem writtenBelow.write_next (h : writtenBelow m n) (b : Byte) : writtenBelow (Memory.write m n b) (n + 1) := by
  intro a ha
  rw [Memory.read_write]
  split
  · rfl
  · exact h a (by omega)

/-- The two bytes a start candidate writes begin a capture. -/
theorem startsFrame_start (m : Memory) (hb : b.extractLsb' 4 4 = Config.formatNibble) :
    startsFrame (Memory.write (Memory.write m 0 Config.startTag) 1 b) := by
  simp [startsFrame, fbRead_write, hb]

theorem writtenBelow_start (m : Memory) (b : Byte) :
    writtenBelow (Memory.write (Memory.write m 0 Config.startTag) 1 b) 2 :=
  writtenBelow.write_next (n := 1) (writtenBelow.write_next (n := 0) (fun _ ha => absurd ha (by omega)) _) b

theorem startsFrame.write (h : startsFrame m) (hi : 2 ≤ i) (hi' : i < Config.fbBytes) (b : Byte) :
    startsFrame (Memory.write m i b) := by
  have h0 : i ≠ 0 := by omega
  have h1 : i ≠ 1 := by omega
  simpa [startsFrame, fbRead_write hi', h0, h1] using h

/-- The length byte fixes the declared length, with the low bits of the byte before it. -/
theorem declaredLength_write_two (m : Memory) (b : Byte) :
    declaredLength (Memory.write m 2 b) = frameLength (fbRead m 1) b := by
  simp [declaredLength, fbRead_write]

theorem declaredLength_write (hi : 3 ≤ i) (hi' : i < Config.fbBytes) (m : Memory) (b : Byte) :
    declaredLength (Memory.write m i b) = declaredLength m := by
  have h1 : i ≠ 1 := by omega
  have h2 : i ≠ 2 := by omega
  simp [declaredLength, fbRead_write hi', h1, h2]

end

/-- An index the buffer has is not the last of 12 bits. -/
theorem toNat_add_one {i : FbIndex} (h : i.toNat < Config.fbBytes) : (i + 1#12).toNat = i.toNat + 1 :=
  BitVec.toNat_add_of_lt (Nat.lt_of_lt_of_le (Nat.succ_lt_succ h) (by decide))

theorem bytesDue_toNat (len : BitVec 11) : (bytesDue len).toNat = len.toNat - 1 := by
  unfold bytesDue
  split
  · simp [*]
  · have : len.toNat ≠ 0 := fun h => ‹len ≠ 0#11› (BitVec.eq_of_toNat_eq h)
    bv_omega

/-- With no byte due, for the lengths 0 and 1, a capture is its first three bytes (40_synchronizer.md R72). -/
theorem captureSize_of_nothingDue {len : BitVec 11} (h : bytesDue len = 0#12) : captureSize len = 3 := by
  have hdue := bytesDue_toNat len
  simp only [h, BitVec.toNat_ofNat] at hdue
  unfold captureSize
  split
  · rfl
  · have : len.toNat ≠ 0 := fun h => ‹len ≠ 0#11› (BitVec.eq_of_toNat_eq h)
    omega

theorem captureSize_of_pos {len : BitVec 11} (h : 0 < len.toNat) : captureSize len = len.toNat + 2 := by
  have : len ≠ 0#11 := by
    rintro rfl
    simp at h
  simp [captureSize, this]

/-! ### The capture in order, by where the synchronizer stands -/

/-- Seeking, with no frame in the block, `CaptureOk` asks of the buffer its canonical form alone. -/
theorem captureOk_of_seek {s : State} (hd : s.dec = none) (hwf : Memory.wf s.fb = true) (hs : s.sync = .seek)
    (hp : s.phase ≠ .decode) (hp' : s.phase ≠ .emit) : s.CaptureOk :=
  ⟨hd, hwf, by simp [hs], by simp [hs], by simp [hs], by simp [hp, hp']⟩

theorem captureOk_of_len {s : State} (hd : s.dec = none) (hwf : Memory.wf s.fb = true) (hp : s.phase = .sync)
    (hs : s.sync = .len) (hwp : s.wp = 2#12) (hstart : startsFrame s.fb) (hwritten : writtenBelow s.fb 2) :
    s.CaptureOk :=
  ⟨hd, hwf, fun _ => .inl hp, fun _ => ⟨hwp, hstart, hwritten⟩, by simp [hs], by simp [hp]⟩

theorem captureOk_of_body {s : State} (hd : s.dec = none) (hwf : Memory.wf s.fb = true) (hp : s.phase = .sync)
    (hs : s.sync = .body) (hwp : 3 ≤ s.wp.toNat) (hrem : 1 ≤ s.rem.toNat) (hflen : s.flen = declaredLength s.fb)
    (hsum : s.wp.toNat + s.rem.toNat = s.flen.toNat + 2) (hstart : startsFrame s.fb)
    (hwritten : writtenBelow s.fb s.wp.toNat) : s.CaptureOk :=
  ⟨hd, hwf, fun _ => .inl hp, by simp [hs], fun _ => ⟨hwp, hrem, hflen, hsum, hstart, hwritten⟩, by simp [hp]⟩

/-- A completed capture is in order where what it wrote is a whole frame. -/
theorem captureOk_captureComplete {s : State} {n : BitVec 12} (hd : s.dec = none) (hwf : Memory.wf s.fb = true)
    (hstart : startsFrame s.fb) (hn : n.toNat = captureSize (declaredLength s.fb)) (hwritten : writtenBelow s.fb n.toNat) :
    (s.captureComplete n).CaptureOk :=
  ⟨hd, hwf, by simp, by simp, by simp, fun _ => ⟨rfl, rfl, hstart, hn, hwritten⟩⟩

/-- An ended run keeps the capture it broke off as it was. -/
theorem State.CaptureOk.streamError {s : State} (h : s.CaptureOk) (r : StreamReason) : (s.streamError r).CaptureOk := by
  obtain ⟨hd, hwf, -, hlen, hbody, -⟩ := h
  exact ⟨hd, hwf, fun _ => .inr rfl, hlen, hbody, by simp⟩

/-- The block's moves keep the capture in order. -/
theorem BlockMove.captureOk {e : Edge} {s t : State} (m : BlockMove e s t) (h : s.CaptureOk) : t.CaptureOk := by
  have ⟨hd, hwf, _, hlen, hbody, hframe⟩ := h
  cases m with
  | wait => exact h
  | eos | ioerr | cancelTake => exact h.streamError _
  | seekByte b hr _ hs _ =>
    have hp := ((inReady_iff s).mp hr).1
    exact captureOk_of_seek hd hwf hs (by simp [hp]) (by simp [hp])
  | seekStart b hr _ hs hc =>
    exact captureOk_of_len hd (Memory.wf_write (by decide) _ _ (Memory.wf_write (by decide) _ _ hwf))
      ((inReady_iff s).mp hr).1 rfl rfl (startsFrame_start s.fb (startCandidate_iff.mp hc).2) (writtenBelow_start s.fb b)
  | lenBody b hr _ hs hdue =>
    obtain ⟨-, hstart, hwritten⟩ := hlen hs
    have hdue' := bytesDue_toNat (frameLength (fbRead s.fb 1) b)
    have hrem : (bytesDue (frameLength (fbRead s.fb 1) b)).toNat ≠ 0 := fun h0 => hdue (BitVec.eq_of_toNat_eq h0)
    have hsum : 3 + (bytesDue (frameLength (fbRead s.fb 1) b)).toNat = (frameLength (fbRead s.fb 1) b).toNat + 2 := by
      omega
    exact captureOk_of_body hd (Memory.wf_write (by decide) _ _ hwf) ((inReady_iff s).mp hr).1 rfl (Nat.le_refl 3)
      (Nat.one_le_iff_ne_zero.mpr hrem) (declaredLength_write_two s.fb b).symm hsum
      (hstart.write (Nat.le_refl 2) (by decide) b) (hwritten.write_next b)
  | lenDone b hr _ hs hdue =>
    obtain ⟨-, hstart, hwritten⟩ := hlen hs
    refine captureOk_captureComplete hd (Memory.wf_write (by decide) _ _ hwf)
      (hstart.write (Nat.le_refl 2) (by decide) b) ?_ (hwritten.write_next b)
    rw [declaredLength_write_two, captureSize_of_nothingDue hdue]
    rfl
  | bodyByte b hr _ hs hm hw =>
    obtain ⟨hwp, -, hflen, hsum, hstart, hwritten⟩ := hbody hs
    have hwp' : (s.wp + 1#12).toNat = s.wp.toNat + 1 := toNat_add_one hw
    have hrem' : (s.rem - 1#12).toNat = s.rem.toNat - 1 := BitVec.toNat_sub_of_le (Nat.le_of_lt hm)
    have hwritten' : writtenBelow (Memory.write s.fb s.wp.toNat b) (s.wp + 1#12).toNat := hwp' ▸ hwritten.write_next b
    have hwp3 : 3 ≤ (s.wp + 1#12).toNat := by omega
    have hrem1 : 1 ≤ (s.rem - 1#12).toNat := by omega
    have hsum' : (s.wp + 1#12).toNat + (s.rem - 1#12).toNat = s.flen.toNat + 2 := by omega
    exact captureOk_of_body hd (Memory.wf_write hw _ _ hwf) ((inReady_iff s).mp hr).1 hs hwp3 hrem1
      (hflen.trans (declaredLength_write hwp hw s.fb b).symm) hsum' (hstart.write (Nat.le_of_lt hwp) hw b) hwritten'
  | bodyLast b _ _ hs hm hw =>
    obtain ⟨hwp, -, hflen, hsum, hstart, hwritten⟩ := hbody hs
    have hwp' : (s.wp + 1#12).toNat = s.wp.toNat + 1 := toNat_add_one hw
    have hrem : s.rem.toNat = 1 := congrArg BitVec.toNat hm
    refine captureOk_captureComplete hd (Memory.wf_write hw _ _ hwf) (hstart.write (Nat.le_of_lt hwp) hw b) ?_
      (hwp' ▸ hwritten.write_next b)
    rw [declaredLength_write hwp hw, ← hflen, captureSize_of_pos (by omega), hwp']
    omega
  | decodeOk r hp _ _ =>
    obtain ⟨hs, hwin, hwhole⟩ := hframe (.inl hp)
    exact ⟨rfl, hwf, by simp [hs], by simp [hs], by simp [hs], fun _ => ⟨hs, hwin, hwhole⟩⟩
  | decodeErr x hp _ _ =>
    exact captureOk_of_seek rfl hwf (hframe (.inl hp)).1 (by simp) (by simp)
  | sinkAck hp _ | sinkFail hp _ => exact captureOk_of_seek hd hwf (hframe (.inr hp)).1 (by simp) (by simp)

/-- Settles O50: the block's move goes on from a capture in order and keeps it in order, and so do the host and a reset. -/
theorem stepKeepsTheCaptureInOrder : Obligations.StepKeepsTheCaptureInOrder := by
  intro s h
  have hentry (answer : Option Word32) : (s.blockEntry answer).CaptureOk := h
  have ⟨hd, hwf, _⟩ := h
  obtain ⟨t, ht⟩ := step_next hd fun answer => (hentry answer).blockStep_next s.nextEdge
  refine ⟨t, ht, ?_⟩
  cases hr : s.nextEdge.resets with
  | true =>
    rw [step_reset hd hr ht]
    exact captureOk_of_seek rfl hwf rfl (by simp [State.reset]) (by simp [State.reset])
  | false =>
    obtain ⟨answer, u, m, hu⟩ := step_blockMove hd hr ht
    have hmoved : u.CaptureOk := m.captureOk (hentry answer)
    rw [hu]
    exact hmoved

end Sys2Proof.Machine
end

section
/-! PROOFS. The words of every port: what the encoder lays out the decoder reads back, and what the decoder reads is laid out so; O58
and O59. -/

namespace Sys2Proof.Machine

/-! ### Host words -/

/-- The write strobe of a host word selects its table of rows. -/
theorem decodeHost_join (we : BitVec 1) (addr : Byte) (wdata : Word32) :
    decodeHost (we ++ (addr ++ wdata : BitVec 40)) =
      if we.getLsbD 0 then decodeHostWrite addr wdata else decodeHostRead addr wdata := by
  have hwe : (we ++ (addr ++ wdata : BitVec 40) : HostWord).getLsbD 40 = we.getLsbD 0 := getLsbD_join41 ..
  have haddr : (we ++ (addr ++ wdata : BitVec 40) : HostWord).extractLsb' 32 8 = addr :=
    (BitVec.extractLsb'_append_eq_of_add_le (by decide)).trans BitVec.extractLsb'_append_eq_left
  have hdata : (we ++ (addr ++ wdata : BitVec 40) : HostWord).extractLsb' 0 32 = wdata :=
    (BitVec.extractLsb'_append_eq_of_add_le (by decide)).trans BitVec.extractLsb'_append_eq_right
  rw [decodeHost, hwe, haddr, hdata]

/-- The mask of the decoder keeps the word offset, bits 7:2. -/
theorem hostAddr_and_mask (off : BitVec 6) (lo : BitVec 2) : hostAddr off lo &&& 0xFC#8 = hostAddr off 0#2 := by
  revert off lo; decide

theorem hostAddr_lo (off : BitVec 6) (lo : BitVec 2) : (hostAddr off lo).extractLsb' 0 2 = lo :=
  BitVec.extractLsb'_append_eq_right

theorem hostAddr_off (off : BitVec 6) (lo : BitVec 2) : (hostAddr off lo).extractLsb' 2 6 = off :=
  BitVec.extractLsb'_append_eq_left

theorem hostAddr_parts (addr : Byte) : hostAddr (addr.extractLsb' 2 6) (addr.extractLsb' 0 2) = addr :=
  BitVec.extractLsb'_append_extractLsb'

theorem hostAddr_zero_inj {off off' : BitVec 6} : hostAddr off 0#2 = hostAddr off' 0#2 ↔ off = off' :=
  ⟨fun h => by simpa only [hostAddr_off] using congrArg (BitVec.extractLsb' 2 6) h, congrArg (hostAddr · 0#2)⟩

/-- The read rows by word offset. -/
theorem decodeHostRead_hostAddr (off : BitVec 6) (lo : BitVec 2) (w : Word32) :
    decodeHostRead (hostAddr off lo) w =
      if off = 0#6 then .hostReadCtrl lo w
      else if off = 1#6 then .hostReadStatus lo w
      else if off = 2#6 then .hostReadFbLen lo w
      else if off = 3#6 then .hostReadFbAddr lo w
      else if off = 4#6 then .hostReadFbData lo w
      else if off = 5#6 then .hostReadErrInfo lo w
      else if off = 6#6 then .hostReadErrOffset lo w
      else if off = 7#6 then .hostReadCntSeek lo w
      else if off = 8#6 then .hostReadCntCap lo w
      else if off = 9#6 then .hostReadCntOk lo w
      else if off = 10#6 then .hostReadCntFmt lo w
      else if off = 11#6 then .hostReadCntVar lo w
      else if off = 12#6 then .hostReadCntSinkFail lo w
      else .hostReadUnmapped (hostAddr off lo) w := by
  simp only [← hostAddr_zero_inj (off := off), decodeHostRead, hostAddr_and_mask, hostAddr_lo]
  rfl

theorem decodeHostWrite_hostAddr (off : BitVec 6) (lo : BitVec 2) (w : Word32) :
    decodeHostWrite (hostAddr off lo) w =
      if off = 0#6 then
        if w.getLsbD 0 then .hostSrst lo w
        else if w.getLsbD 1 then .hostCancel lo w
        else .hostWriteIgnored (hostAddr off lo) w
      else if off = 1#6 then .hostW1cStatus lo w
      else if off = 3#6 then .hostWriteFbAddr lo w
      else .hostWriteIgnored (hostAddr off lo) w := by
  simp only [← hostAddr_zero_inj (off := off), decodeHostWrite, hostAddr_and_mask, hostAddr_lo]
  rfl

/-- The command bits of a write to CTRL, one by one (44_host_interface.md R118, R119). -/
theorem commandBits_eq {w : Word32} {v : BitVec 2} :
    w.extractLsb' 0 2 = v ↔ w.getLsbD 0 = v.getLsbD 0 ∧ w.getLsbD 1 = v.getLsbD 1 := by
  constructor
  · rintro rfl
    simp
  · rintro ⟨h0, h1⟩
    apply BitVec.eq_of_getLsbD_eq
    intro i hi
    obtain rfl | rfl : i = 0 ∨ i = 1 := by omega
    · simpa using h0
    · simpa using h1

/-- A write is ignored at CTRL where it gives no command, and at every offset but those of CTRL, STATUS and FB_ADDR. -/
theorem wf_hostWriteIgnored (off : BitVec 6) (lo : BitVec 2) (w : Word32) :
    (Instr.hostWriteIgnored (hostAddr off lo) w).wf = true ↔
      (off = 0#6 ∧ w.getLsbD 0 = false ∧ w.getLsbD 1 = false) ∨ ¬(off = 0#6 ∨ off = 1#6 ∨ off = 3#6) := by
  have hctrl : hostAddr off 0#2 = 0x00#8 ↔ off = 0#6 := hostAddr_zero_inj (off' := 0#6)
  have hstatus : hostAddr off 0#2 = 0x04#8 ↔ off = 1#6 := hostAddr_zero_inj (off' := 1#6)
  have haddr : hostAddr off 0#2 = 0x0C#8 ↔ off = 3#6 := hostAddr_zero_inj (off' := 3#6)
  simp [Instr.wf, hostAddr_and_mask, hctrl, hstatus, haddr, commandBits_eq, and_assoc]

theorem wf_hostReadUnmapped (off : BitVec 6) (lo : BitVec 2) (w : Word32) :
    (Instr.hostReadUnmapped (hostAddr off lo) w).wf = true ↔ 13 ≤ off.toNat := by
  have row : 0x34 ≤ (hostAddr off 0#2).toNat ↔ 13 ≤ off.toNat := by revert off; decide
  simpa only [Instr.wf, hostAddr_and_mask, decide_eq_true_eq] using row

/-! ### Reading back the words of an instruction (O58) -/

/-- Enough bytes whose row is well formed decode to it; at BODY the count item's tag is checked too. -/
theorem decode_wire {p : Place} {bs : List Byte} {i : Instr} (hrow : assembleWire p bs = i) (hwf : i.wf = true)
    (hlen : wireSize p bs ≤ bs.length) (hbody : p = .body → byteAt bs 0 = Config.tagCount) :
    decode (.wire p) bs = .ok i := by
  subst hrow
  have hcount : ¬(p = .body && byteAt bs 0 != Config.tagCount) = true := by simpa using hbody
  simp only [decode, decodeWire, if_neg (Nat.not_lt.mpr hlen), if_neg hcount, if_pos hwf]

theorem timestampAt_bytesTimestamp (t : Timestamp) (rest : List Byte) : timestampAt (bytesTimestamp t ++ rest) 0 = t := by
  have hyear : be16 (bytesTimestamp t ++ rest) 1 = t.year :=
    be16_bytes16 t.year ([t.month, t.day, t.hour, t.minute, t.second] ++ bytes32 t.rsv ++ rest)
  have hrsv : be32 (bytesTimestamp t ++ rest) 8 = t.rsv := be32_bytes32 t.rsv rest
  rw [timestampAt, hyear, hrsv]
  rfl

/-- The frame info's bits: the format nibble, the separator, the length (30_encoding.md R51). -/
theorem assembleWire_frameInfo (format : BitVec 4) (sep : BitVec 1) (len : BitVec 11) (rest : List Byte) :
    assembleWire .frameInfo (bytes16 (format ++ (sep ++ len)) ++ rest) = .frameInfo format sep len := by
  have hformat : (format ++ (sep ++ len) : BitVec 16).extractLsb' 12 4 = format := BitVec.extractLsb'_append_eq_left
  have hsep : (format ++ (sep ++ len) : BitVec 16).extractLsb' 11 1 = sep :=
    (BitVec.extractLsb'_append_eq_of_add_le (by decide)).trans BitVec.extractLsb'_append_eq_left
  have hlen : (format ++ (sep ++ len) : BitVec 16).extractLsb' 0 11 = len :=
    (BitVec.extractLsb'_append_eq_of_add_le (by decide)).trans BitVec.extractLsb'_append_eq_right
  simp only [assembleWire, be16_bytes16, hformat, hsep, hlen]

/-- The Meta reserved value's five bytes give it back. -/
theorem be40_bytes (v : BitVec 40) (rest : List Byte) :
    be40 (v.extractLsb' 32 8 :: (bytes32 (v.extractLsb' 0 32) ++ rest)) 0 = v :=
  calc be40 (v.extractLsb' 32 8 :: (bytes32 (v.extractLsb' 0 32) ++ rest)) 0
      = v.extractLsb' 32 8 ++ be32 (bytes32 (v.extractLsb' 0 32) ++ rest) 0 := rfl
    _ = v.extractLsb' 32 8 ++ v.extractLsb' 0 32 := by rw [be32_bytes32]
    _ = v := BitVec.extractLsb'_append_extractLsb'

theorem assembleWire_text (f : TextField) (tag : Byte) {k : Byte} {content : List Byte} (hk : content.length = k.toNat)
    (rest : List Byte) : assembleWire (.text f) (tag :: k :: content ++ rest) = .itemText f tag k content := by
  have hcontent : (content ++ rest).take k.toNat = content := by rw [← hk, List.take_left]
  exact congrArg (Instr.itemText f tag k) hcontent

theorem variantOf_unsupported {n : Byte} (h : (Instr.variantUnsupported n).wf = true) :
    variantOf n = .variantUnsupported n := by
  have hcounts : ∀ c ∈ Config.supportedCounts, n ≠ c := by
    rintro c hc rfl
    simp [Instr.wf, hc] at h
  simp only [Config.supportedCounts, List.forall_mem_cons] at hcounts
  simp [variantOf, hcounts]

/-- A count's two bytes are read back at BODY as its variant row. -/
theorem decode_body {n : Byte} {i : Instr} (hrow : variantOf n = i) (hwf : i.wf = true) (rest : List Byte) :
    decode (.wire .body) ([Config.tagCount, n] ++ rest) = .ok i :=
  decode_wire hrow hwf (by simp [wireSize]) fun _ => rfl

theorem decode_sink_cons (b : Byte) (rest : List Byte) : decode .sink (b :: rest) = decode .sink [b] := by
  simp [decode, byteAt]

/-- A host write's bytes are read back as the write row of its address. -/
theorem decode_hostWrite (addr : Byte) (w : Word32) (rest : List Byte) :
    decode .host (bytesHost 1#1 addr w ++ rest) = .ok (decodeHostWrite addr w) := by
  rw [decode_bytesHost, decodeHost_join]
  rfl

theorem decode_hostRead (addr : Byte) (w : Word32) (rest : List Byte) :
    decode .host (bytesHost 0#1 addr w ++ rest) = .ok (decodeHostRead addr w) := by
  rw [decode_bytesHost, decodeHost_join]
  rfl

theorem decodeHostWrite_ignored {addr : Byte} {w : Word32} (h : (Instr.hostWriteIgnored addr w).wf = true) :
    decodeHostWrite addr w = .hostWriteIgnored addr w := by
  rw [← hostAddr_parts addr] at h ⊢
  rw [decodeHostWrite_hostAddr]
  obtain ⟨hctrl, h0, h1⟩ | hoff := (wf_hostWriteIgnored _ _ _).mp h
  · simp only [hctrl, h0, h1, Bool.false_eq_true, if_true, if_false]
  · simp only [not_or] at hoff
    simp only [hoff, if_false]

theorem decodeHostRead_unmapped {addr : Byte} {w : Word32} (h : (Instr.hostReadUnmapped addr w).wf = true) :
    decodeHostRead addr w = .hostReadUnmapped addr w := by
  rw [← hostAddr_parts addr] at h ⊢
  have hoff := (wf_hostReadUnmapped _ _ _).mp h
  have hne (k : BitVec 6) (hk : k.toNat < 13) : addr.extractLsb' 2 6 ≠ k := by
    rintro rfl
    omega
  simp [decodeHostRead_hostAddr, hne]

/-- Settles O58: each port reads back the words laid out for it; what is left is the row those bits select. -/
theorem decodeReadsBackEveryEncoding : Obligations.DecodeReadsBackEveryEncoding := by
  intro i rest hwf
  cases i with
  | seekByte b | lenByte b | bodyByte b | bodyLast b => exact (decode_bytesToken ..).trans (decodeToken_byte ..)
  | seekStart b =>
    have hc : startCandidate Config.startTag b = true := startCandidate_iff.mpr ⟨rfl, beq_iff_eq.mp hwf⟩
    refine (decode_bytesToken ..).trans ((decodeToken_byte ..).trans ?_)
    simp only [hc, if_true]
  | streamEos => exact (decode_bytesToken ..).trans (decodeToken_eos ..)
  | streamIoerr => exact (decode_bytesToken ..).trans (decodeToken_ioerr ..)
  | cancelTake | decodeStep => rfl
  | sinkAck | sinkFail => exact (decode_sink_cons ..).trans (by decide)
  | startTag | destAddr | control | count => exact decode_wire rfl hwf (Nat.le_add_left _ rest.length) nofun
  | frameInfo => exact decode_wire (assembleWire_frameInfo ..) hwf (Nat.le_add_left _ rest.length) nofun
  | srcAddr a => exact decode_wire (congrArg Instr.srcAddr (be16_bytes16 a rest)) hwf (Nat.le_add_left _ rest.length) nofun
  | hcs h => exact decode_wire (congrArg Instr.hcs (be16_bytes16 h rest)) hwf (Nat.le_add_left _ rest.length) nofun
  | metaBlock dst src llc reserved =>
    exact decode_wire (congrArg (Instr.metaBlock dst src llc) (be40_bytes reserved rest)) hwf
      (Nat.le_add_left _ rest.length) nofun
  | msgTs tag t =>
    exact decode_wire (congrArg (Instr.msgTs tag) (timestampAt_bytesTimestamp t rest)) hwf
      (Nat.le_add_left _ rest.length) nofun
  | itemETs tag t =>
    exact decode_wire (congrArg (Instr.itemETs tag) (timestampAt_bytesTimestamp t rest)) hwf
      (Nat.le_add_left _ rest.length) nofun
  | variant1 | variant9 | variant13 | variant14 | variant18 => exact decode_body (by rfl) hwf rest
  | variantUnsupported n => exact decode_body (variantOf_unsupported hwf) hwf rest
  | itemText f tag k content =>
    obtain ⟨-, hk⟩ : tag = Config.tagOctets ∧ content.length = k.toNat := by simpa [Instr.wf] using hwf
    have hsize : (encode (.itemText f tag k content)).length = 2 + k.toNat := Laws.EncodeSize.itemText f tag k content hwf
    refine decode_wire (assembleWire_text f tag hk rest) hwf ?_ nofun
    rw [List.length_append, hsize]
    exact Nat.le_add_right ..
  | itemU32 f tag v =>
    exact decode_wire (congrArg (Instr.itemU32 f tag) (be32_bytes32 v rest)) hwf (Nat.le_add_left _ rest.length) nofun
  | itemS32 f tag v =>
    exact decode_wire (congrArg (Instr.itemS32 f tag) (be32_bytes32 v rest)) hwf (Nat.le_add_left _ rest.length) nofun
  | fcsEndTag fcs tag =>
    exact decode_wire (congrArg (Instr.fcsEndTag · tag) (be16_bytes16 fcs (tag :: rest))) hwf
      (Nat.le_add_left _ rest.length) nofun
  | hostSrst lo w =>
    refine (decode_hostWrite ..).trans (congrArg _ ((decodeHostWrite_hostAddr ..).trans ?_))
    have h0 : w.getLsbD 0 = true := hwf
    simp only [h0, if_true]
  | hostCancel lo w =>
    refine (decode_hostWrite ..).trans (congrArg _ ((decodeHostWrite_hostAddr ..).trans ?_))
    obtain ⟨h0, h1⟩ := commandBits_eq.mp (beq_iff_eq.mp hwf)
    simp only [h0, h1]
    rfl
  | hostW1cStatus | hostWriteFbAddr => exact (decode_hostWrite ..).trans (congrArg _ (decodeHostWrite_hostAddr ..))
  | hostWriteIgnored => exact (decode_hostWrite ..).trans (congrArg _ (decodeHostWrite_ignored hwf))
  | hostReadUnmapped => exact (decode_hostRead ..).trans (congrArg _ (decodeHostRead_unmapped hwf))
  | _ => exact (decode_hostRead ..).trans (congrArg _ (decodeHostRead_hostAddr ..))

/-! ### Every word is an instruction (O59) -/

/-- The instruction is well formed, and its words are these bytes. -/
def Spells (i : Instr) (bs : List Byte) : Prop := i.wf = true ∧ encode i = bs

theorem spells_ite {c : Prop} [Decidable c] {i j : Instr} {bs : List Byte} (hi : c → Spells i bs)
    (hj : ¬c → Spells j bs) : Spells (if c then i else j) bs := by
  split
  · exact hi ‹c›
  · exact hj ‹¬c›

theorem spells_decodeHostWrite (off : BitVec 6) (lo : BitVec 2) (w : Word32) :
    Spells (decodeHostWrite (hostAddr off lo) w) (bytesHost 1#1 (hostAddr off lo) w) := by
  have hignored := wf_hostWriteIgnored off lo w
  rw [decodeHostWrite_hostAddr]
  split_ifs with hctrl h0 h1 hstatus haddr
  · exact ⟨h0, by rw [hctrl]; rfl⟩
  · have h0 : w.getLsbD 0 = false := by simpa using h0
    exact ⟨beq_iff_eq.mpr (commandBits_eq.mpr ⟨h0, h1⟩), by rw [hctrl]; rfl⟩
  · exact ⟨hignored.mpr (.inl ⟨hctrl, by simpa using h0, by simpa using h1⟩), rfl⟩
  · exact ⟨rfl, by rw [hstatus]; rfl⟩
  · exact ⟨rfl, by rw [haddr]; rfl⟩
  · exact ⟨hignored.mpr (.inr (by simp [*])), rfl⟩

theorem spells_decodeHostRead (off : BitVec 6) (lo : BitVec 2) (w : Word32) :
    Spells (decodeHostRead (hostAddr off lo) w) (bytesHost 0#1 (hostAddr off lo) w) := by
  rw [decodeHostRead_hostAddr]
  iterate 13
    refine spells_ite ?_ fun _ => ?_
    · rintro rfl
      exact ⟨rfl, rfl⟩
  refine ⟨(wf_hostReadUnmapped off lo w).mpr ?_, rfl⟩
  simp only [BitVec.toNat_eq, BitVec.toNat_ofNat] at *
  omega

/-- The write strobe as its own word. -/
theorem writeStrobe_eq {w : HostWord} {b : Bool} (h : w.getLsbD 40 = b) : w.extractLsb' 40 1 = BitVec.ofBool b := by
  apply BitVec.eq_of_getLsbD_eq
  intro i hi
  obtain rfl : i = 0 := by omega
  simpa using h

theorem spells_decodeHost (w : HostWord) :
    Spells (decodeHost w) (bytesHost (w.extractLsb' 40 1) (w.extractLsb' 32 8) (w.extractLsb' 0 32)) := by
  rw [decodeHost, ← hostAddr_parts (w.extractLsb' 32 8)]
  cases hw : w.getLsbD 40 with
  | true =>
    rw [writeStrobe_eq hw]
    exact spells_decodeHostWrite ..
  | false =>
    rw [writeStrobe_eq hw]
    exact spells_decodeHostRead ..

/-- The three kinds of token: an error, an end of stream, a byte (30_encoding.md R49). -/
theorem token_cases (k : Token) :
    (∃ x : BitVec 9, k = 0b1#1 ++ x) ∨ (∃ b : Byte, k = 0b01#2 ++ b) ∨ ∃ b : Byte, k = 0b00#2 ++ b := by
  cases h9 : k.getLsbD 9 with
  | true => exact .inl ⟨_, token_of_err h9⟩
  | false =>
    cases h8 : k.getLsbD 8 with
    | true => exact .inr (.inl ⟨_, token_of_eos h9 h8⟩)
    | false => exact .inr (.inr ⟨_, token_of_byte h9 h8⟩)

theorem spells_decodeToken {sync : SyncState} {win : Byte} {rem : FbIndex} {k : Token} {i : Instr}
    (h : decodeToken sync win rem k = .ok i) : Spells i (bytesToken k) := by
  obtain ⟨x, rfl⟩ | ⟨b, rfl⟩ | ⟨b, rfl⟩ := token_cases k
  · rw [decodeToken_ioerr] at h
    cases h
    exact ⟨rfl, rfl⟩
  · rw [decodeToken_eos] at h
    cases h
    exact ⟨rfl, rfl⟩
  · rw [decodeToken_byte] at h
    cases sync with
    | seek =>
      dsimp only at h
      split at h <;> cases h
      · exact ⟨beq_iff_eq.mpr (startCandidate_iff.mp ‹_›).2, rfl⟩
      · exact ⟨rfl, rfl⟩
    | len =>
      cases h
      exact ⟨rfl, rfl⟩
    | body =>
      dsimp only at h
      split_ifs at h <;> cases h <;> exact ⟨rfl, rfl⟩

/-- The only token without a row is a byte. -/
theorem decodeToken_error_byte {sync : SyncState} {win : Byte} {rem : FbIndex} {k : Token} {r : Reject}
    (h : decodeToken sync win rem k = .error r) : k.extractLsb' 8 2 = 0b00#2 := by
  obtain ⟨x, rfl⟩ | ⟨b, rfl⟩ | ⟨b, rfl⟩ := token_cases k
  · cases (decodeToken_ioerr ..).symm.trans h
  · cases (decodeToken_eos ..).symm.trans h
  · exact BitVec.extractLsb'_append_eq_left

/-- Settles O59. -/
theorem everyTokenAndHostWordIsOneInstruction : Obligations.EveryTokenAndHostWordIsOneInstruction := by
  refine ⟨spells_decodeHost, fun _ _ _ _ _ h => spells_decodeToken h, fun _ _ _ _ _ h => ?_⟩
  obtain ⟨hsync, hrem⟩ := decodeToken_error h
  exact ⟨hsync, hrem, decodeToken_error_byte h⟩

end Sys2Proof.Machine
end

section
/-! PROOFS. The rows that tokens and wire words select, and the field ids; O9, O22, O49 and O60. -/

namespace Sys2Proof.Machine

/-- Settles O9. -/
theorem tokenAndStateSelectTheRow : Obligations.TokenAndStateSelectTheRow := by
  intro sync win rem b x
  refine ⟨decodeToken_ioerr sync win rem x, decodeToken_eos sync win rem b, ?_⟩
  rw [decodeToken_byte]
  cases sync with
  | seek => simp only [startCandidate_iff]
  | len | body => rfl

theorem maskBit_getLsbD (f : Field) {j : Nat} (hj : j < 32) : (maskBit f).getLsbD j = (j == (fieldId f).toNat) := by
  have hf : (fieldId f).toNat < 32 := (fieldId f).isLt
  rw [maskBit, BitVec.getLsbD_shiftLeft, BitVec.getLsbD_one]
  grind

/-- Settles O22. -/
theorem fieldIdsAndTheirMaskBits : Obligations.FieldIdsAndTheirMaskBits := by
  refine ⟨rfl, fun r f j hj => ?_⟩
  rw [Rec.mark, BitVec.getLsbD_or, maskBit_getLsbD f hj]

/-- A wire row that the decoder answers is the one of the bits found at the place; at BODY they are a count item's. -/
theorem assembleWire_of_decodeWire {p : Place} {bs : List Byte} {i : Instr} (h : decodeWire p bs = .ok i) :
    assembleWire p bs = i := by
  unfold decodeWire at h
  split_ifs at h
  exact Except.ok.inj h

/-- Settles O49. -/
theorem stepRunsTheDecodedWireRow : Obligations.StepRunsTheDecodedWireRow := by
  intro s d hd
  have hrow (p : Place) (rest : List Place) (htodo : d.todo = p :: rest) :
      step s = exec (s.wireInstr d p) { s with dec := some { d with todo := rest } } := by
    simp only [step, hd, htodo]
  refine ⟨hrow, fun p rest i htodo hi _ => ?decoded, fun htodo => ?last⟩
  case decoded =>
    have hp : s.wireInstr d p = i := by
      rw [← assembleWire_of_decodeWire hi]
      cases p <;> rfl
    exact ⟨hp, hp ▸ hrow p rest htodo⟩
  case last =>
    simp only [step, hd, htodo]
    rfl

/-- Settles O60. -/
theorem wordsOfTheSpecDecodeAsStated : Obligations.WordsOfTheSpecDecodeAsStated := by
  unfold Obligations.WordsOfTheSpecDecodeAsStated
  decide

end Sys2Proof.Machine
end

section
/-! PROOFS. The items of a body, read one after another, each with its checks, and the record they leave; O21. -/

namespace Sys2Proof.Machine

/-! ### A check, and what it lets pass -/

/-- A value, unless a check has failed. -/
def okUnless {α : Type} (failed : Option Err) (a : α) : Except Err α :=
  match failed with
  | some e => .error e
  | none => .ok a

@[simp] theorem okUnless_none {α : Type} (a : α) : okUnless none a = .ok a := rfl

@[simp] theorem okUnless_some {α : Type} (e : Err) (a : α) : okUnless (some e) a = .error e := rfl

theorem need_eq (n k : Nat) (f : Field) (d : Dec) :
    need n k f d = okUnless (if n < d.cur + k then some (overrunAt f d.cur) else none) () := by
  unfold need
  split_ifs <;> rfl

/-- `expect` at the byte that stands at the cursor (41_decoder_frame.md R82). -/
theorem expect_eq (s : State) (v : Byte) (f : Field) (d : Dec) :
    expect s.fbLen.toNat v (s.frameByte d.cur) f d =
      okUnless (if s.fbLen.toNat < d.cur + 1 then some (overrunAt f d.cur)
        else if s.frameByte d.cur ≠ v then some (s.mismatchAt f d.cur) else none) (d.advance 1) := by
  rw [expect, need_eq]
  by_cases htag : s.fbLen.toNat < d.cur + 1
  · simp only [if_pos htag, okUnless_some]
  by_cases hval : s.frameByte d.cur = v
  · simp only [if_neg htag, if_pos hval, if_neg (not_not.mpr hval), okUnless_none]
  · simp only [if_neg htag, if_neg hval, if_pos hval, okUnless_none, okUnless_some]
    rfl

theorem readField_eq (n k : Nat) (f : Field) (put : Rec → Rec) (d : Dec) :
    readField n k f put d =
      okUnless (if n < d.cur + k then some (overrunAt f d.cur) else none)
        { d with cur := d.cur + k, record := (put d.record).mark f } := by
  rw [readField, need_eq]
  by_cases hin : n < d.cur + k
  · simp only [if_pos hin, okUnless_some]
  · simp only [if_neg hin, okUnless_none]
    rfl

/-! ### One item of the body -/

/-- The checks of an item whose size its place fixes. -/
theorem itemError_of_fixedSize {p : Place} (hp : ∀ f, p ≠ .text f) (s : State) (cur : Nat) :
    s.itemError p cur =
      if s.fbLen.toNat < cur + 1 then some (overrunAt (itemField p) cur)
      else if s.frameByte cur ≠ itemTag p then some (s.mismatchAt (itemField p) cur)
      else if s.fbLen.toNat < cur + s.itemSize p cur then some (overrunAt (itemField p) (cur + 1))
      else none := by
  unfold State.itemError
  cases p with
  | text f => exact absurd rfl (hp f)
  | _ => rfl

/-- A tag and then a field of fixed size, as the checks of their place say. `row` is the row that reads them. -/
theorem readTagged_eq {s : State} (p : Place) {v : Byte} {f : Field} {k : Nat} {put : Rec → Rec} {d : Dec}
    {row : Except Err Dec} (hp : ∀ g, p ≠ .text g) (hv : itemTag p = v) (hf : itemField p = f)
    (hsize : s.itemSize p d.cur = 1 + k)
    (herr : ∀ e, expect s.fbLen.toNat v (s.frameByte d.cur) f d = .error e → row = .error e)
    (hok : ∀ d1, expect s.fbLen.toNat v (s.frameByte d.cur) f d = .ok d1 → row = readField s.fbLen.toNat k f put d1) :
    row = okUnless (s.itemError p d.cur) { d with cur := d.cur + (1 + k), record := (put d.record).mark f } := by
  subst hv hf
  simp only [expect_eq] at herr hok
  rw [itemError_of_fixedSize hp, hsize, ← Nat.add_assoc]
  split_ifs at herr hok ⊢ with htag hval hend
  · exact herr _ rfl
  · exact herr _ rfl
  · exact (hok _ rfl).trans ((readField_eq ..).trans (congrArg (okUnless · _) (if_pos hend)))
  · exact (hok _ rfl).trans ((readField_eq ..).trans (congrArg (okUnless · _) (if_neg hend)))

section

variable (s : State) (d : Dec)

theorem readItemU32_eq (f : U32Field) (v : Word32) :
    readItemU32 s.fbLen.toNat f (s.frameByte d.cur) v d =
      okUnless (s.itemError (.u32 f) d.cur)
        { d with cur := d.cur + 5, record := (d.record.setU32 f v).mark (u32Field f) } :=
  readTagged_eq (.u32 f) (v := Config.tagInt) (f := u32Field f) (k := 4) (put := fun r => r.setU32 f v) nofun rfl rfl rfl
    (fun e h => by rw [readItemU32, h]) fun d1 h => by
    rw [readItemU32, h]

theorem readItemS32_eq (f : S32Field) (v : Word32) :
    readItemS32 s.fbLen.toNat f (s.frameByte d.cur) v d =
      okUnless (s.itemError (.s32 f) d.cur)
        { d with cur := d.cur + 5, record := (d.record.setS32 f v).mark (s32Field f) } :=
  readTagged_eq (.s32 f) (v := Config.tagInt) (f := s32Field f) (k := 4) (put := fun r => r.setS32 f v) nofun rfl rfl rfl
    (fun e h => by rw [readItemS32, h]) fun d1 h => by
    rw [readItemS32, h]

/-- The two timestamps, of the message and of the energy block (41_decoder_frame.md R90). -/
theorem readTimestamp_eq {p : Place} (hp : p = .msgTs ∨ p = .eTs) (put : Rec → Rec) :
    readTimestamp s.fbLen.toNat (s.frameByte d.cur) (itemField p) put d =
      okUnless (s.itemError p d.cur) { d with cur := d.cur + 13, record := (put d.record).mark (itemField p) } := by
  obtain rfl | rfl := hp <;>
  exact readTagged_eq _ (v := Config.tagOctets) (k := Config.tsBytes) nofun rfl rfl rfl (fun e h => by rw [readTimestamp, h]) fun d1 h => by
    rw [readTimestamp, h]

theorem readCount_eq (v : Byte) :
    readCount s.fbLen.toNat (s.frameByte d.cur) v d =
      okUnless (s.itemError .count d.cur)
        { d with cur := d.cur + 2, record := Rec.mark .count { d.record with count := v } } :=
  readTagged_eq .count (v := Config.tagCount) (f := .count) (k := 1) (put := fun r => { r with count := v }) nofun rfl rfl rfl
    (fun e h => by rw [readCount, h]) fun d1 h => by
    rw [readCount, h]

theorem readItemText_eq (f : TextField) :
    readItemText s.fbLen.toNat f (s.frameByte d.cur) (s.frameByte (d.cur + 1)) d =
      okUnless (s.itemError (.text f) d.cur) { d with
        cur := d.cur + s.itemSize (.text f) d.cur, record := s.itemRecord (.text f) d.cur d.record } := by
  have hend : d.cur + (2 + (s.frameByte (d.cur + 1)).toNat) = d.cur + 2 + (s.frameByte (d.cur + 1)).toNat := by omega
  unfold readItemText State.itemError
  simp only [expect_eq, need_eq, readField_eq, State.itemSize, itemTag, itemField, Dec.advance, hend]
  by_cases htag : s.fbLen.toNat < d.cur + 1
  · simp only [if_pos htag, okUnless_some]
  by_cases hval : s.frameByte d.cur ≠ Config.tagOctets
  · simp only [if_neg htag, if_pos hval, okUnless_some]
  by_cases hlen : s.fbLen.toNat < d.cur + 2
  · simp only [if_neg htag, if_neg hval, if_pos hlen, okUnless_some, okUnless_none]
  · simp only [if_neg htag, if_neg hval, if_neg hlen, okUnless_none]
    rfl

/-- The row of a text item holds the tag and the length byte that stand at the cursor. -/
theorem readItem_text (f : TextField) :
    readItem s.fbLen.toNat (s.wireInstr d (.text f)) d =
      readItemText s.fbLen.toNat f (s.frameByte d.cur) (s.frameByte (d.cur + 1)) d := by
  have hbyte (k j : Nat) (hj : j < 2 + k) : byteAt (s.window d.cur (2 + k)) j = s.frameByte (d.cur + j) := by
    simp [byteAt, State.window, hj]
  simp only [State.wireInstr, assembleWire, readItem, wireSize]
  rw [hbyte _ 0 (by omega), hbyte _ 1 (by omega)]
  rfl

end

/-- An item's row, read where it stands: its checks, then its field in the record and the cursor after it. -/
theorem readItem_eq {s : State} {p : Place} (hp : isItemPlace p = true) (d : Dec) :
    readItem s.fbLen.toNat (s.wireInstr d p) d =
      okUnless (s.itemError p d.cur) { d with
        cur := d.cur + s.itemSize p d.cur, record := s.itemRecord p d.cur d.record } := by
  cases p with
  | text f => exact (readItem_text s d f).trans (readItemText_eq s d f)
  | u32 f => exact readItemU32_eq s d f (s.u32At (d.cur + 1))
  | s32 f => exact readItemS32_eq s d f (s.u32At (d.cur + 1))
  | eTs => exact readTimestamp_eq s d (.inr rfl) fun r => { r with ets := s.tsAt (d.cur + 1) }
  | startTag | frameInfo | destAddr | srcAddr | control | hcs | metaBlock | msgTs | count | body | footer => cases hp

/-- A place has no error exactly when it has its tag and lies inside the frame. -/
theorem itemError_eq_none {s : State} {p : Place} {cur : Nat} :
    s.itemError p cur = none ↔ s.frameByte cur = itemTag p ∧ cur + s.itemSize p cur ≤ s.fbLen.toNat := by
  cases p <;>
  · simp only [State.itemError, State.itemSize]
    grind

/-! ### The items of a body, one after another -/

theorem itemsEnd_cons {s : State} {p : Place} {rest : List Place} {cur : Nat} :
    s.itemsEnd (p :: rest) cur = if s.itemError p cur = none then s.itemsEnd rest (cur + s.itemSize p cur) else none := by
  simp only [State.itemsEnd, itemError_eq_none]

theorem itemsError_cons_none {s : State} {p : Place} {rest : List Place} {cur : Nat} (h : s.itemError p cur = none) :
    s.itemsError (p :: rest) cur = s.itemsError rest (cur + s.itemSize p cur) := by
  simp only [State.itemsError, h]

theorem itemsError_cons_some {s : State} {p : Place} {rest : List Place} {cur : Nat} {e : Err}
    (h : s.itemError p cur = some e) : s.itemsError (p :: rest) cur = some e := by
  simp only [State.itemsError, h]

theorem itemsEnd_eq_none_iff (s : State) (ps : List Place) (cur : Nat) :
    s.itemsEnd ps cur = none ↔ s.itemsError ps cur ≠ none := by
  induction ps generalizing cur with
  | nil => simp [State.itemsEnd, State.itemsError]
  | cons p rest ih =>
    rw [itemsEnd_cons]
    cases he : s.itemError p cur with
    | none => rw [if_pos rfl, itemsError_cons_none he, ih]
    | some e => simp [itemsError_cons_some he]

theorem readItems_of_itemsEnd {s : State} {ps : List Place} (hps : ∀ p ∈ ps, isItemPlace p = true) {d : Dec} {last : Nat}
    (h : s.itemsEnd ps d.cur = some last) :
    readItems s ps d = .ok { d with cur := last, record := s.itemsRecord ps d.cur d.record } := by
  induction ps generalizing d with
  | nil => cases h; rfl
  | cons p rest ih =>
    obtain ⟨hp, hrest⟩ := List.forall_mem_cons.mp hps
    rw [itemsEnd_cons] at h
    split at h
    · rename_i he
      simp only [readItems, readItem_eq hp, he, okUnless_none]
      exact ih hrest h
    · cases h

theorem readItems_of_itemsError {s : State} {ps : List Place} (hps : ∀ p ∈ ps, isItemPlace p = true) {d : Dec} {e : Err}
    (h : s.itemsError ps d.cur = some e) : readItems s ps d = .error e := by
  induction ps generalizing d with
  | nil => cases h
  | cons p rest ih =>
    obtain ⟨hp, hrest⟩ := List.forall_mem_cons.mp hps
    simp only [readItems, readItem_eq hp]
    cases he : s.itemError p d.cur with
    | none =>
      rw [itemsError_cons_none he] at h
      exact ih hrest h
    | some x =>
      rw [itemsError_cons_some he] at h
      cases h
      rfl

/-! ### The record that the items leave -/

theorem itemRecord_reads {p : Place} (hp : isItemPlace p = true) (s : State) (cur : Nat) (r : Rec) :
    r.Reads [itemField p] (s.itemRecord p cur r) := by
  cases p with
  | text f => exact (Rec.sameBut_setText f _ r).reads
  | u32 f => exact (Rec.sameBut_setU32 f _ r).reads
  | s32 f => exact (Rec.sameBut_setS32 f _ r).reads
  | eTs => exact (Rec.sameBut_ets _ r).reads
  | startTag | frameInfo | destAddr | srcAddr | control | hcs | metaBlock | msgTs | count | body | footer => cases hp

theorem itemsRecord_reads {ps : List Place} (hps : ∀ p ∈ ps, isItemPlace p = true) (s : State) (cur : Nat) (r : Rec) :
    r.Reads (ps.map itemField) (s.itemsRecord ps cur r) := by
  induction ps generalizing cur r with
  | nil => exact .nil r
  | cons p rest ih =>
    obtain ⟨hp, hrest⟩ := List.forall_mem_cons.mp hps
    exact (itemRecord_reads hp s cur r).append (ih hrest _ _)

/-- The bits that fields set do not depend on those set before them. -/
theorem markAll_eq_or (fs : List Field) (m : BitVec 32) : markAll fs m = m ||| markAll fs 0#32 := by
  induction fs generalizing m with
  | nil => simp [markAll]
  | cons f rest ih =>
    have hcons (m : BitVec 32) : markAll (f :: rest) m = markAll rest (m ||| maskBit f) := rfl
    rw [hcons, hcons, ih, ih (0#32 ||| maskBit f), BitVec.zero_or, BitVec.or_assoc]

/-! ### The variant rows (42_decoder_body.md R100 to R104) -/

/-- A row that reads items under its variant's code. -/
theorem exec_variantRow {row : Instr} {code : BitVec 3} {mask : BitVec 32} {items : List Place}
    (hrow : ∀ s, exec row s = s.runDec (readVariant s code items)) (hitems : ∀ p ∈ items, isItemPlace p = true)
    (hmask : markAll (items.map itemField) 0#32 = mask) {s : State} {d : Dec} (hd : s.dec = some d) :
    (∀ last, s.itemsEnd items d.cur = some last →
      exec row s = .next { s with dec := some { d with
        cur := last, record := s.itemsRecord items d.cur { d.record with variant := code } } } ∧
      (s.itemsRecord items d.cur { d.record with variant := code }).mask = d.record.mask ||| mask) ∧
    (∀ e, s.itemsError items d.cur = some e → exec row s = .next (s.frameError e)) ∧
    (s.itemsEnd items d.cur = none ↔ s.itemsError items d.cur ≠ none) := by
  refine ⟨fun last h => ⟨?read, ?mask⟩, fun e h => ?error, itemsEnd_eq_none_iff s items d.cur⟩
  case read => exact (hrow s).trans (runDec_some_ok hd (readItems_of_itemsEnd hitems h))
  case mask => rw [(itemsRecord_reads hitems s _ _).mask, markAll_eq_or, hmask]
  case error => exact (hrow s).trans (runDec_some_error hd (readItems_of_itemsError hitems h))

/-- Settles O21. -/
theorem variantRowsReadTheirItemsInOrder : Obligations.VariantRowsReadTheirItemsInOrder := by
  simp only [Obligations.VariantRowsReadTheirItemsInOrder, List.forall_mem_cons]
  refine ⟨?v1, ?v9, ?v13, ?v14, ?v18, nofun⟩ <;>
  exact fun s d hd => exec_variantRow (fun _ => rfl) (by decide) (by decide) hd

end Sys2Proof.Machine
end

section
/-! PROOFS. Where the items end, by the sizes the record holds; O28. -/

namespace Sys2Proof.Machine

/-! ### The text fields of a record that the items leave -/

/-- Items of other fields leave a text field as it is. -/
theorem itemsRecord_text_of_notMem {ps : List Place} {f : TextField} (hf : Place.text f ∉ ps) (s : State) (cur : Nat)
    (r : Rec) : (s.itemsRecord ps cur r).text f = r.text f := by
  induction ps generalizing cur r with
  | nil => rfl
  | cons p rest ih =>
    obtain ⟨hp, hrest⟩ := not_or.mp (List.mem_cons.not.mp hf)
    refine (ih hrest _ _).trans ?_
    cases p with
    | text g => exact (Rec.text_setText r g f _).trans (if_neg fun h => hp (congrArg _ h))
    | u32 g | s32 g => cases g <;> rfl
    | _ => rfl

/-- The bytes of an item, a text's from the length in the record (30_encoding.md R62). -/
def Rec.itemBytes (r : Rec) : Place → Nat
  | .text f => 2 + (r.text f).len.toNat
  | .u32 _ | .s32 _ => 5
  | .eTs | .msgTs => 13
  | .count | .body | .frameInfo | .srcAddr | .hcs => 2
  | .startTag | .destAddr | .control => 1
  | .metaBlock => 8
  | .footer => 3

/-- Items with no text twice end where their sizes, the texts' as the record holds them, say. -/
theorem itemsEnd_eq_sum {s : State} {ps : List Place} (hps : ps.Nodup) {cur last : Nat} (r : Rec)
    (h : s.itemsEnd ps cur = some last) : last = cur + (ps.map (s.itemsRecord ps cur r).itemBytes).sum := by
  induction ps generalizing cur r with
  | nil => cases h; rfl
  | cons p rest ih =>
    obtain ⟨hp, hrest⟩ := List.nodup_cons.mp hps
    have hsize : (s.itemsRecord (p :: rest) cur r).itemBytes p = s.itemSize p cur := by
      cases p with
      | text f =>
        have htext : (s.itemsRecord (.text f :: rest) cur r).text f =
            ⟨BitVec.ofNat 12 (cur + 2), s.frameByte (cur + 1)⟩ :=
          (itemsRecord_text_of_notMem hp s _ _).trans ((Rec.text_setText ..).trans (if_pos rfl))
        rw [Rec.itemBytes, htext]
        rfl
      | _ => rfl
    rw [itemsEnd_cons] at h
    split at h
    · rw [List.map_cons, List.sum_cons, hsize, ← Nat.add_assoc]
      exact ih hrest _ h
    · cases h

theorem nodup_of_variantShape {n : Byte} {code : BitVec 3} {items : List Place} {mask : BitVec 32}
    (h : variantShape n = some (code, items, mask)) : items.Nodup := by
  have rows : ∀ row ∈ variantRows, row.2.2.1.Nodup := by decide
  have row := rows _ (mem_variantRows h)
  exact row

/-- A well-formed frame holds 32 bytes, its items and 3 bytes (30_encoding.md R62). -/
theorem State.WellFormedFrame.size {s : State} (h : s.WellFormedFrame) :
    ∃ code items mask, variantShape s.frameRecord.count = some (code, items, mask) ∧
      s.fbLen.toNat = 35 + (items.map s.frameRecord.itemBytes).sum := by
  obtain ⟨-, -, -, -, -, code, items, mask, last, hshape, hitems, hend, -⟩ := h
  have hcount : s.frameRecord.count = s.frameByte 31 := by rw [State.frameRecord, hshape]
  have hbytes : s.frameRecord.itemBytes = (s.itemsRecord items 32 Rec.zero).itemBytes := by
    rw [State.frameRecord, hshape]
    funext p
    cases p with
    | text f => cases f <;> rfl
    | _ => rfl
  refine ⟨code, items, mask, hcount ▸ hshape, ?_⟩
  have hlast := itemsEnd_eq_sum (nodup_of_variantShape hshape) Rec.zero hitems
  rw [hbytes]
  omega

/-- Settles O28. -/
theorem wellFormedFrameSizes : Obligations.WellFormedFrameSizes := by
  intro s h
  dsimp only
  obtain ⟨code, items, mask, hshape, hsize⟩ := h.size
  have hobis := s.frameRecord.obis.len.isLt
  have hmid := s.frameRecord.mid.len.isLt
  have hmtype := s.frameRecord.mtype.len.isLt
  have hrow := mem_variantRows hshape
  simp only [variantRows, List.mem_cons, Prod.mk.injEq, List.not_mem_nil, or_false] at hrow
  obtain ⟨hcount, -, rfl, -⟩ | ⟨hcount, -, rfl, -⟩ | ⟨hcount, -, rfl, -⟩ | ⟨hcount, -, rfl, -⟩ | ⟨hcount, -, rfl, -⟩ := hrow <;>
  · simp only [items1, items9, items13, items14, items18, identityItems, powerItems, energyItems, List.cons_append,
      List.nil_append, List.map_cons, List.map_nil, List.sum_cons, List.sum_nil, Rec.itemBytes, Rec.text] at hsize
    simp only [hcount, BitVec.reduceEq, false_implies, true_implies, true_and, and_true]
    omega

end Sys2Proof.Machine
end

section
/-! PROOFS. A decode is the first failing check of the layout, or the record of the layout's offsets; O25. -/

namespace Sys2Proof.Machine

/-! ### The frame info's two bytes (30_encoding.md R51) -/

theorem frameInfo_len (b c : Byte) : (b ++ c : BitVec 16).extractLsb' 0 11 = frameLength b c :=
  calc (b ++ c : BitVec 16).extractLsb' 0 11
      = (b ++ c : BitVec 16).extractLsb' 8 3 ++ (b ++ c : BitVec 16).extractLsb' 0 8 :=
        (BitVec.extractLsb'_append_extractLsb'_eq_extractLsb' (start₁ := 0) (len₁ := 8) (len₂ := 3) rfl).symm
    _ = b.extractLsb' 0 3 ++ c := by
        rw [BitVec.extractLsb'_append_eq_of_le (by decide), BitVec.extractLsb'_append_eq_right]

/-- The format byte, rebuilt from the row's bits as LENGTH_MISMATCH reports it (log entry 17). -/
theorem frameInfo_formatByte (b c : Byte) :
    b.extractLsb' 4 4 ++ b.extractLsb' 3 1 ++ (frameLength b c).extractLsb' 8 3 = b := by
  have hlow : (frameLength b c).extractLsb' 8 3 = b.extractLsb' 0 3 := BitVec.extractLsb'_append_eq_left
  have htop : b.extractLsb' 4 4 ++ b.extractLsb' 3 1 = b.extractLsb' 3 5 :=
    BitVec.extractLsb'_append_extractLsb'_eq_extractLsb' rfl
  rw [hlow, htop]
  exact BitVec.extractLsb'_append_extractLsb'

theorem wireInstr_frameInfo (s : State) (d : Dec) :
    s.wireInstr d .frameInfo = .frameInfo ((s.frameByte d.cur).extractLsb' 4 4) ((s.frameByte d.cur).extractLsb' 3 1)
      (frameLength (s.frameByte d.cur) (s.frameByte (d.cur + 1))) := by
  have hrow : s.wireInstr d .frameInfo = .frameInfo ((s.u16At d.cur).extractLsb' 12 4)
      ((s.u16At d.cur).extractLsb' 11 1) ((s.u16At d.cur).extractLsb' 0 11) := rfl
  rw [hrow, State.u16At, frameInfo_len, BitVec.extractLsb'_append_eq_of_le (by decide),
    BitVec.extractLsb'_append_eq_of_le (by decide)]

/-! ### A row outside the body: its checks, and what it reads (41_decoder_frame.md R85 to R93) -/

/-- The first check that fails of the row at a place, BODY's aside, whose checks are its items'. -/
def State.placeError (s : State) (p : Place) (cur : Nat) : Option Err :=
  match p with
  | .startTag =>
    if s.fbLen.toNat < cur + 1 then some (overrunAt .startTag cur)
    else if s.frameByte cur ≠ Config.startTag then some (s.mismatchAt .startTag cur)
    else none
  | .frameInfo =>
    if s.fbLen.toNat < cur + 2 then some (overrunAt .frameInfo cur)
    else if s.fbLen.toNat ≠ (frameLength (s.frameByte cur) (s.frameByte (cur + 1))).toNat + 2 then
      some (.format .lengthMismatch .frameInfo 1 (s.frameByte cur))
    else none
  | .destAddr | .srcAddr | .control | .hcs | .metaBlock =>
    if s.fbLen.toNat < cur + s.itemSize p cur then some (overrunAt (itemField p) cur) else none
  | .footer =>
    if s.fbLen.toNat < cur + 2 then some (overrunAt .fcs cur)
    else if s.fbLen.toNat < cur + 3 then some (overrunAt .endTag (cur + 2))
    else if s.frameByte (cur + 2) ≠ Config.endTag then some (s.mismatchAt .endTag (cur + 2))
    else if s.fbLen.toNat ≠ cur + 3 then some (.format .trailing .frameEnd (cur + 3) (s.frameByte (cur + 3)))
    else none
  | .msgTs | .count | .body | .text _ | .u32 _ | .s32 _ | .eTs => s.itemError p cur

/-- A record with the row at a place read into it, BODY's aside. -/
def State.placeRecord (s : State) (p : Place) (cur : Nat) (r : Rec) : Rec :=
  match p with
  | .startTag => r.mark .startTag
  | .frameInfo => Rec.mark .frameInfo { r with hdr := { r.hdr with
      format := (s.frameByte cur).extractLsb' 4 4, sep := (s.frameByte cur).extractLsb' 3 1
      len := frameLength (s.frameByte cur) (s.frameByte (cur + 1)) } }
  | .destAddr => Rec.mark .destAddr { r with hdr := { r.hdr with dest := s.frameByte cur } }
  | .srcAddr => Rec.mark .srcAddr { r with hdr := { r.hdr with src := s.u16At cur } }
  | .control => Rec.mark .control { r with hdr := { r.hdr with ctrl := s.frameByte cur } }
  | .hcs => Rec.mark .hcs { r with hdr := { r.hdr with hcs := s.u16At cur } }
  | .metaBlock => Rec.mark .metaBlock { r with link := ⟨s.frameByte cur, s.frameByte (cur + 1), s.frameByte (cur + 2),
      s.frameByte (cur + 3) ++ s.u32At (cur + 4)⟩ }
  | .msgTs => Rec.mark .msgTs { r with ts := s.tsAt (cur + 1) }
  | .count => Rec.mark .count { r with count := s.frameByte (cur + 1) }
  | .footer => Rec.mark .endTag (Rec.mark .fcs { r with fcs := s.u16At cur })
  | .body | .text _ | .u32 _ | .s32 _ | .eTs => s.itemRecord p cur r

/-- The locals after the row at a place. -/
def State.passPlace (s : State) (p : Place) (d : Dec) : Dec :=
  { d with cur := d.cur + s.itemSize p d.cur, record := s.placeRecord p d.cur d.record }

section

variable (s : State) (d : Dec)

theorem readStartTag_eq : readStartTag s.fbLen.toNat (s.frameByte d.cur) d =
    okUnless (s.placeError .startTag d.cur) (s.passPlace .startTag d) := by
  rw [readStartTag, expect_eq, State.placeError]
  split_ifs <;> rfl

theorem readFrameInfo_eq (b c : Byte) :
    readFrameInfo s.fbLen.toNat (b.extractLsb' 4 4) (b.extractLsb' 3 1) (frameLength b c) d =
      okUnless (if s.fbLen.toNat < d.cur + 2 then some (overrunAt .frameInfo d.cur)
          else if s.fbLen.toNat ≠ (frameLength b c).toNat + 2 then some (.format .lengthMismatch .frameInfo 1 b) else none)
        { d with
          cur := d.cur + 2
          record := Rec.mark .frameInfo { d.record with hdr := { d.record.hdr with
            format := b.extractLsb' 4 4, sep := b.extractLsb' 3 1, len := frameLength b c } } } := by
  rw [readFrameInfo, readField_eq, frameInfo_formatByte]
  by_cases hinside : s.fbLen.toNat < d.cur + 2
  · simp only [if_pos hinside, okUnless_some]
  by_cases hlen : s.fbLen.toNat = (frameLength b c).toNat + 2
  · simp only [if_neg hinside, if_pos hlen, if_neg (not_not.mpr hlen), okUnless_none]
  · simp only [if_neg hinside, if_neg hlen, if_pos hlen, okUnless_none, okUnless_some]

theorem readFcsEndTag_eq : readFcsEndTag s (s.u16At d.cur) (s.frameByte (d.cur + 2)) d =
    okUnless (s.placeError .footer d.cur) (s.passPlace .footer d) := by
  have hexpect (r : Rec) := expect_eq s Config.endTag .endTag { d with cur := d.cur + 2, record := r }
  rw [readFcsEndTag, readField_eq, State.placeError]
  split_ifs with hfcs htag hval hend
  · rfl
  · simp only [okUnless_none, hexpect, if_pos htag, okUnless_some]
  · simp only [okUnless_none, hexpect, if_neg htag, if_pos hval, okUnless_some]
  · simp only [okUnless_none, hexpect, if_neg htag, if_neg hval, Dec.advance, if_neg (Ne.symm hend), okUnless_some]
  · simp only [okUnless_none, hexpect, if_neg htag, if_neg hval, Dec.advance, if_pos (not_not.mp hend).symm]
    rfl

end

/-- A row outside the body, read where it stands. -/
theorem readWire_eq {s : State} {p : Place} (hp : p ≠ .body) (d : Dec) :
    readWire s (s.wireInstr d p) d = okUnless (s.placeError p d.cur) (s.passPlace p d) := by
  cases p with
  | body => exact absurd rfl hp
  | startTag => exact readStartTag_eq s d
  | frameInfo => rw [wireInstr_frameInfo]; exact readFrameInfo_eq s d _ _
  | destAddr => exact readField_eq _ _ _ (fun r => { r with hdr := { r.hdr with dest := s.frameByte d.cur } }) d
  | srcAddr => exact readField_eq _ _ _ (fun r => { r with hdr := { r.hdr with src := s.u16At d.cur } }) d
  | control => exact readField_eq _ _ _ (fun r => { r with hdr := { r.hdr with ctrl := s.frameByte d.cur } }) d
  | hcs => exact readField_eq _ _ _ (fun r => { r with hdr := { r.hdr with hcs := s.u16At d.cur } }) d
  | metaBlock =>
    exact readField_eq _ _ _ (fun r => { r with link := ⟨s.frameByte d.cur, s.frameByte (d.cur + 1),
      s.frameByte (d.cur + 2), s.frameByte (d.cur + 3) ++ s.u32At (d.cur + 4)⟩ }) d
  | msgTs => exact readTimestamp_eq s d (.inl rfl) fun r => { r with ts := s.tsAt (d.cur + 1) }
  | count => exact readCount_eq s d (s.frameByte (d.cur + 1))
  | text | u32 | s32 | eTs => exact (readItem_eq_readWire rfl d).symm.trans (readItem_eq rfl d)
  | footer => exact readFcsEndTag_eq s d

/-- The first check that fails of a sequence of rows outside the body. -/
def State.placesError (s : State) (places : List Place) (cur : Nat) : Option Err :=
  match places with
  | [] => none
  | p :: rest => (s.placeError p cur).or (State.placesError s rest (cur + s.itemSize p cur))

theorem readPlaces_eq {s : State} {ps : List Place} (hps : ∀ p ∈ ps, p ≠ .body) (d : Dec) :
    readPlaces s ps d = okUnless (s.placesError ps d.cur) (ps.foldl (fun d p => s.passPlace p d) d) := by
  induction ps generalizing d with
  | nil => rfl
  | cons p rest ih =>
    obtain ⟨hp, hrest⟩ := List.forall_mem_cons.mp hps
    simp only [readPlaces, readWire_eq hp, State.placesError]
    cases s.placeError p d.cur with
    | none => exact ih hrest (s.passPlace p d)
    | some e => rfl

/-! ### The rows before the body -/

/-- The places before the body. -/
def headPlaces : List Place := headerPlaces ++ [.count]

/-- The record when the body begins: the item count, the header, Meta and the message timestamp, with their bits. -/
def State.headRecord (s : State) : Rec :=
  { Rec.zero with
    count := s.frameByte 31
    mask := markAll (headPlaces.map itemField) 0#32
    hdr := ⟨(s.frameByte 1).extractLsb' 4 4, (s.frameByte 1).extractLsb' 3 1, frameLength (s.frameByte 1) (s.frameByte 2),
      s.frameByte 3, s.u16At 4, s.frameByte 6, s.u16At 7⟩
    link := ⟨s.frameByte 9, s.frameByte 10, s.frameByte 11, s.frameByte 12 ++ s.u32At 13⟩
    ts := s.tsAt 18 }

theorem readPlaces_head (s : State) :
    readPlaces s headPlaces (Dec.start []) = okUnless (s.placesError headPlaces 0) ⟨32, [], s.headRecord⟩ :=
  readPlaces_eq (ps := headPlaces) (by decide) (Dec.start [])

/-- The checks of body and footer, as `firstError` makes them. -/
def State.bodyError (s : State) : Option Err :=
  match variantShape (s.frameByte 31) with
  | none => some (.unsupportedVariant (s.frameByte 31))
  | some (_, items, _) =>
    match s.itemsEnd items 32 with
    | none => s.itemsError items 32
    | some last => s.placeError .footer last

theorem ite_some_eq_or {α : Type} {c : Prop} [Decidable c] {a : α} {x y z : Option α} (h : z = x.or y) :
    (if c then some a else z) = (if c then some a else x).or y := by
  split
  · rfl
  · exact h

/-- The chain of checks, place by place: two of the start tag, two of the frame info, one of each raw field, three of the
message timestamp and three of the item count, and then those of the body. -/
theorem firstError_eq (s : State) : s.firstError = (s.placesError headPlaces 0).or s.bodyError := by
  simp only [headPlaces, headerPlaces, State.placesError, State.itemSize, Nat.reduceAdd, List.cons_append, List.nil_append,
    Option.or_assoc]
  simp only [State.placeError, State.itemError, State.itemSize, itemTag, itemField]
  iterate 2 refine ite_some_eq_or ?_
  rw [Option.none_or]
  iterate 2 refine ite_some_eq_or ?_
  rw [Option.none_or]
  iterate 5
    refine ite_some_eq_or ?_
    rw [Option.none_or]
  iterate 2
    iterate 3 refine ite_some_eq_or ?_
    rw [Option.none_or]
  rfl

/-! ### The body and the footer -/

theorem readWire_variantOf {s : State} {n : Byte} {code : BitVec 3} {items : List Place} {mask : BitVec 32}
    (h : variantShape n = some (code, items, mask)) (d : Dec) :
    readWire s (variantOf n) d = readVariant s code items d := by
  unfold variantShape at h
  unfold variantOf
  split_ifs at h ⊢ <;> cases h <;> rfl

theorem readWire_variantOf_none {s : State} {n : Byte} (h : variantShape n = none) (d : Dec) :
    readWire s (variantOf n) d = .error (.unsupportedVariant n) := by
  unfold variantShape at h
  unfold variantOf
  split_ifs at h ⊢
  rfl

/-- The fields of `r` that no body item writes but the mask, and the body fields of `body`. -/
def Rec.withBody (r body : Rec) : Rec :=
  { body with count := r.count, variant := r.variant, mask := r.mask, hdr := r.hdr, link := r.link, ts := r.ts, fcs := r.fcs }

theorem itemRecord_withBody {p : Place} (hp : isItemPlace p = true) (s : State) (cur : Nat) (r body : Rec) :
    s.itemRecord p cur (r.withBody body) = (r.mark (itemField p)).withBody (s.itemRecord p cur body) := by
  cases p with
  | text f | u32 f | s32 f => cases f <;> rfl
  | eTs => rfl
  | startTag | frameInfo | destAddr | srcAddr | control | hcs | metaBlock | msgTs | count | body | footer => cases hp

/-- The items write their fields whatever stands in the others. -/
theorem itemsRecord_withBody {ps : List Place} (hps : ∀ p ∈ ps, isItemPlace p = true) (s : State) (cur : Nat)
    (r body : Rec) :
    s.itemsRecord ps cur (r.withBody body) =
      Rec.withBody { r with mask := markAll (ps.map itemField) r.mask } (s.itemsRecord ps cur body) := by
  induction ps generalizing cur r body with
  | nil => rfl
  | cons p rest ih =>
    obtain ⟨hp, hrest⟩ := List.forall_mem_cons.mp hps
    exact (congrArg _ (itemRecord_withBody hp s cur r body)).trans (ih hrest _ _ _)

theorem markAll_append (fs gs : List Field) (m : BitVec 32) : markAll (fs ++ gs) m = markAll gs (markAll fs m) :=
  List.foldl_append

/-- The record of a frame of a supported count that ends after its footer, field by field as the rows write it. -/
theorem frameRecord_eq {s : State} {code : BitVec 3} {items : List Place} {mask : BitVec 32} {last : Nat}
    (hshape : variantShape (s.frameByte 31) = some (code, items, mask)) (hlast : s.fbLen.toNat = last + 3) :
    s.placeRecord .footer last (s.itemsRecord items 32 { s.headRecord with variant := code }) = s.frameRecord := by
  have hfields : frameFields items = headPlaces.map itemField ++ (items.map itemField ++ [.fcs, .endTag]) := by
    rw [frameFields, headPlaces, List.map_append, List.append_assoc]
    rfl
  have hmask : markAll [.fcs, .endTag] (markAll (items.map itemField) s.headRecord.mask) = mask := by
    rw [← markAll_frameFields hshape, hfields, markAll_append, markAll_append]
    rfl
  have hfcs : s.fbLen.toNat - 3 = last := by omega
  have hitems := itemsRecord_withBody (isItemPlace_of_variantShape hshape) s 32 { s.headRecord with variant := code } Rec.zero
  rw [State.frameRecord, hshape, ← hmask, hfcs]
  exact congrArg (s.placeRecord .footer last) hitems

theorem wireInstr_body (s : State) (d : Dec) : s.wireInstr d .body = variantOf d.record.count := rfl

section

variable {s : State} {code : BitVec 3} {items : List Place} {mask : BitVec 32}

theorem bodyError_of_unsupported (h : variantShape (s.frameByte 31) = none) :
    s.bodyError = some (.unsupportedVariant (s.frameByte 31)) := by
  simp only [State.bodyError, h]

theorem bodyError_of_itemsEnd_none (h : variantShape (s.frameByte 31) = some (code, items, mask))
    (hend : s.itemsEnd items 32 = none) : s.bodyError = s.itemsError items 32 := by
  simp only [State.bodyError, h, hend]

theorem bodyError_of_itemsEnd_some {last : Nat} (h : variantShape (s.frameByte 31) = some (code, items, mask))
    (hend : s.itemsEnd items 32 = some last) : s.bodyError = s.placeError .footer last := by
  simp only [State.bodyError, h, hend]

end

/-- The footer passes where the frame ends right after its end tag (41_decoder_frame.md R93). -/
theorem placeError_footer_eq_none {s : State} {cur : Nat} :
    s.placeError .footer cur = none ↔ cur + 3 = s.fbLen.toNat ∧ s.frameByte (cur + 2) = Config.endTag := by
  simp only [State.placeError]
  grind

theorem readPlaces_body (s : State) :
    (readPlaces s [.body, .footer] ⟨32, [], s.headRecord⟩).map Dec.record = okUnless s.bodyError s.frameRecord := by
  have hcount : s.headRecord.count = s.frameByte 31 := rfl
  simp only [readPlaces, wireInstr_body, hcount]
  cases hshape : variantShape (s.frameByte 31) with
  | none =>
    rw [readWire_variantOf_none hshape, bodyError_of_unsupported hshape]
    rfl
  | some shape =>
    obtain ⟨code, items, mask⟩ := shape
    have hitems := isItemPlace_of_variantShape hshape
    rw [readWire_variantOf hshape, readVariant]
    cases hend : s.itemsEnd items 32 with
    | none =>
      obtain ⟨e, he⟩ := Option.ne_none_iff_exists'.mp ((itemsEnd_eq_none_iff s items 32).mp hend)
      rw [readItems_of_itemsError hitems he, bodyError_of_itemsEnd_none hshape hend, he]
      rfl
    | some last =>
      rw [readItems_of_itemsEnd hitems hend, bodyError_of_itemsEnd_some hshape hend]
      simp only [readWire_eq (p := .footer) nofun]
      cases hfooter : s.placeError .footer last with
      | some e => rfl
      | none =>
        obtain ⟨hlast, -⟩ := placeError_footer_eq_none.mp hfooter
        exact congrArg Except.ok (frameRecord_eq hshape hlast.symm)

/-! ### The whole frame -/

theorem readPlaces_append (s : State) (ps qs : List Place) (d : Dec) :
    readPlaces s (ps ++ qs) d = (readPlaces s ps d).bind (readPlaces s qs) := by
  induction ps generalizing d with
  | nil => rfl
  | cons p rest ih =>
    simp only [List.cons_append, readPlaces]
    cases readWire s (s.wireInstr d p) d with
    | ok d1 => exact ih d1
    | error e => rfl

theorem decodeFrame_eq_map (s : State) :
    s.decodeFrame = (readPlaces s decodeOrder (Dec.start [])).map Dec.record := by
  unfold State.decodeFrame
  cases readPlaces s decodeOrder (Dec.start []) <;> rfl

/-- A captured frame decodes to the record at the layout's offsets, unless a check fails, and then to the first that does. -/
theorem decodeFrame_eq (s : State) : s.decodeFrame = okUnless s.firstError s.frameRecord := by
  have horder : decodeOrder = headPlaces ++ [.body, .footer] := by
    rw [decodeOrder_eq, headPlaces, List.append_assoc]
    rfl
  rw [decodeFrame_eq_map, horder, readPlaces_append, readPlaces_head, firstError_eq]
  cases s.placesError headPlaces 0 with
  | none => exact readPlaces_body s
  | some e => rfl

theorem placesError_head_eq_none (s : State) :
    s.placesError headPlaces 0 = none ↔
      s.frameByte 0 = Config.startTag ∧
      s.fbLen.toNat = (frameLength (s.frameByte 1) (s.frameByte 2)).toNat + 2 ∧
      s.frameByte 17 = Config.tagOctets ∧ s.frameByte 30 = Config.tagCount ∧ 32 ≤ s.fbLen.toNat := by
  simp only [headPlaces, headerPlaces, State.placesError, List.cons_append, List.nil_append, State.placeError,
    State.itemSize, Option.or_eq_none_iff, itemError_eq_none, itemTag]
  grind

theorem bodyError_eq_none (s : State) :
    s.bodyError = none ↔ ∃ code items mask last, variantShape (s.frameByte 31) = some (code, items, mask) ∧
      s.itemsEnd items 32 = some last ∧ last + 3 = s.fbLen.toNat ∧ s.frameByte (last + 2) = Config.endTag := by
  constructor
  · intro h
    cases hshape : variantShape (s.frameByte 31) with
    | none => simp [bodyError_of_unsupported hshape] at h
    | some shape =>
      obtain ⟨code, items, mask⟩ := shape
      cases hend : s.itemsEnd items 32 with
      | none =>
        rw [bodyError_of_itemsEnd_none hshape hend] at h
        exact absurd h ((itemsEnd_eq_none_iff s items 32).mp hend)
      | some last =>
        rw [bodyError_of_itemsEnd_some hshape hend, placeError_footer_eq_none] at h
        exact ⟨code, items, mask, last, rfl, hend, h⟩
  · rintro ⟨code, items, mask, last, hshape, hend, hfooter⟩
    rw [bodyError_of_itemsEnd_some hshape hend, placeError_footer_eq_none]
    exact hfooter

/-- No check fails exactly on the well-formed frames (41_decoder_frame.md R94). -/
theorem firstError_eq_none (s : State) : s.firstError = none ↔ s.WellFormedFrame := by
  rw [firstError_eq, Option.or_eq_none_iff, placesError_head_eq_none, bodyError_eq_none, State.WellFormedFrame]
  simp only [and_assoc]

/-- Settles O25. -/
theorem decodeAcceptsExactlyTheWellFormedFrames : Obligations.DecodeAcceptsExactlyTheWellFormedFrames := by
  intro s
  rw [decodeFrame_eq, ← firstError_eq_none]
  cases s.firstError <;> simp

end Sys2Proof.Machine
end

section
/-! PROOFS. What each token row of the synchronizer does from the state that enables it; O4 to O8. -/

namespace Sys2Proof.Machine

/-! ### A row by its move -/

/-- The row a token selects is read from the token's bytes, and does what the block's move at its edge does. -/
theorem decode_exec_of_move {s t : State} {k : Token} {i : Instr} (hr : s.inReady = true)
    (hk : decodeToken s.sync s.win s.rem k = .ok i) (m : BlockMove { Edge.idle with token := some k } s t) :
    decode s.tokenPort (bytesToken k) = .ok i ∧ exec i s = .next t :=
  ⟨(decode_tokenPort s k).trans hk, (blockStep_token hr rfl hk).symm.trans m.blockStep⟩

/-! ### The buffer after a write -/

theorem changedOnlyAt_write {i : Nat} (hi : i < Config.fbBytes) (m : Memory) (v : Byte) :
    changedOnlyAt m (Memory.write m i v) i v :=
  ⟨by rw [fbRead_write hi, if_pos rfl], fun a ha => by rw [fbRead_write hi, if_neg (Ne.symm ha)]⟩

/-- Bytes written from an index on are read back there; every other index reads as before. -/
theorem fbRead_writeList (bs : List Byte) {i : Nat} (hi : i + bs.length ≤ Config.fbBytes) (m : Memory) (a : Nat) :
    fbRead (Memory.writeList m i bs) a = if i ≤ a ∧ a < i + bs.length then byteAt bs (a - i) else fbRead m a := by
  induction bs generalizing i m with
  | nil => simp [Memory.writeList]
  | cons b rest ih =>
    rw [List.length_cons] at hi ⊢
    have hw : i < Config.fbBytes := by omega
    rw [Memory.writeList, ih (by omega), fbRead_write hw]
    obtain hlt | rfl | hgt := Nat.lt_trichotomy a i
    · rw [if_neg (by omega), if_neg (by omega), if_neg (by omega)]
    · rw [if_neg (by omega), if_pos rfl, if_pos (by omega), Nat.sub_self]
      rfl
    · have hsub : a - i = (a - (i + 1)) + 1 := by omega
      have hread : byteAt (b :: rest) (a - i) = byteAt rest (a - (i + 1)) := by rw [hsub]; rfl
      rw [if_neg (show ¬i = a by omega), hread]
      exact if_congr (by omega) rfl rfl

/-! ### The rows of a byte -/

/-- Settles O4. -/
theorem seekByteCountsAndMovesTheWindow : Obligations.SeekByteCountsAndMovesTheWindow := by
  intro s b hp hc hs hno
  have hr : s.inReady = true := (inReady_iff s).mpr ⟨hp, hc⟩
  have hcand : startCandidate s.win b = false := Bool.eq_false_iff.mpr (mt startCandidate_iff.mp hno)
  have hrow : decodeToken s.sync s.win s.rem (byteToken b) = .ok (.seekByte b) := by
    simp [byteToken, decodeToken_byte, hs, hcand]
  exact decode_exec_of_move hr hrow (.seekByte b hr rfl hs hcand)

/-- Settles O5. -/
theorem seekStartOpensACapture : Obligations.SeekStartOpensACapture := by
  intro s b hp hc hs hwin hnib
  have hr : s.inReady = true := (inReady_iff s).mpr ⟨hp, hc⟩
  have hcand : startCandidate s.win b = true := startCandidate_iff.mpr ⟨hwin, hnib⟩
  have hrow : decodeToken s.sync s.win s.rem (byteToken b) = .ok (.seekStart b) := by
    simp [byteToken, decodeToken_byte, hs, hcand]
  obtain ⟨hdec, hexec⟩ := decode_exec_of_move hr hrow (.seekStart b hr rfl hs hcand)
  have hroom : 0 + [Config.startTag, b].length ≤ Config.fbBytes := Nat.le_add_left 2 2047
  have hread := fbRead_writeList [Config.startTag, b] hroom s.fb
  refine ⟨hdec, _, hexec, rfl, hread 0, hread 1, fun a ha => (hread a).trans (if_neg ?_)⟩
  exact fun h => Nat.not_lt.mpr ha h.2

theorem bytesDue_eq_ofNat (len : BitVec 11) : bytesDue len = BitVec.ofNat 12 (len.toNat - 1) := by
  rw [← bytesDue_toNat, BitVec.ofNat_toNat, BitVec.setWidth_eq]

/-- No byte is due after the length byte exactly for the lengths 0 and 1 (40_synchronizer.md R72). -/
theorem bytesDue_eq_zero_iff (len : BitVec 11) : bytesDue len = 0#12 ↔ len.toNat < 2 := by
  rw [← BitVec.toNat_inj, bytesDue_toNat, BitVec.toNat_ofNat]
  omega

/-- Settles O6, by whether a byte is due after the length byte. -/
theorem lenByteSizesTheCapture : Obligations.LenByteSizesTheCapture := by
  intro s b hp hc hs
  have hr : s.inReady = true := (inReady_iff s).mpr ⟨hp, hc⟩
  have hrow : decodeToken s.sync s.win s.rem (byteToken b) = .ok (.lenByte b) := by
    simp [byteToken, decodeToken_byte, hs]
  have hchanged := changedOnlyAt_write (i := 2) (by decide) s.fb b
  have hzero := bytesDue_eq_zero_iff (frameLength (fbRead s.fb 1) b)
  by_cases hdue : bytesDue (frameLength (fbRead s.fb 1) b) = 0#12
  · obtain ⟨hdec, hexec⟩ := decode_exec_of_move hr hrow (.lenDone b hr rfl hs hdue)
    exact ⟨hdec, _, hexec, hchanged, fun hlen => absurd (hzero.mp hdue) (Nat.not_lt.mpr hlen), fun _ => rfl⟩
  · obtain ⟨hdec, hexec⟩ := decode_exec_of_move hr hrow (.lenBody b hr rfl hs hdue)
    rw [bytesDue_eq_ofNat] at hexec
    exact ⟨hdec, _, hexec, hchanged, fun _ => rfl, fun hlen => absurd (hzero.mpr hlen) hdue⟩

/-- Settles O7. -/
theorem bodyBytesAreStoredUntilTheLast : Obligations.BodyBytesAreStoredUntilTheLast := by
  intro s b hp hc hs hwp
  have hr : s.inReady = true := (inReady_iff s).mpr ⟨hp, hc⟩
  have hw : s.wp.toNat < Config.fbBytes := Nat.lt_succ_of_le hwp
  have hchanged := changedOnlyAt_write hw s.fb b
  refine ⟨fun hm => ?notLast, fun hm => ?last⟩
  case notLast =>
    have h0 : s.rem ≠ 0#12 := by rintro h; simp [h] at hm
    have h1 : s.rem ≠ 1#12 := by rintro h; simp [h] at hm
    have hrow : decodeToken s.sync s.win s.rem (byteToken b) = .ok (.bodyByte b) := by
      simp [byteToken, decodeToken_byte, hs, h0, h1]
    obtain ⟨hdec, hexec⟩ := decode_exec_of_move hr hrow (.bodyByte b hr rfl hs hm hw)
    exact ⟨hdec, _, hexec, hchanged, rfl⟩
  case last =>
    have hrow : decodeToken s.sync s.win s.rem (byteToken b) = .ok (.bodyLast b) := by
      simp [byteToken, decodeToken_byte, hs, hm]
    obtain ⟨hdec, hexec⟩ := decode_exec_of_move hr hrow (.bodyLast b hr rfl hs hm hw)
    exact ⟨hdec, _, hexec, hchanged, rfl⟩

/-! ### The stream errors -/

/-- A stream error counts nowhere and sets no sticky flag (60_exceptions.md R131). -/
theorem streamError_eq (r : StreamReason) (s : State) :
    s.streamError r = { s with
      err := (Err.stream r s.sync s.wp).record, out := { s.out with log := some (Err.stream r s.sync s.wp).record }
      serrCode := r.code, phase := .halted } := by
  simp [State.streamError, State.raise, Err.isFormat, Err.isVariant, Err.isSink, tick]

/-- Settles O8: the three rows are the stream error of their reason, whose record the synchronizer's state decides. -/
theorem streamErrorsEndTheRun : Obligations.StreamErrorsEndTheRun := by
  intro s hp r ended
  have hended (reason : StreamReason) : s.streamError reason = ended reason.code (reason.code.setWidth 3) := by
    have hrec : (Err.stream reason s.sync s.wp).record = r (reason.code.setWidth 3) := by
      simp only [r, Err.record]
      cases s.sync <;> rfl
    rw [streamError_eq, hrec]
  refine ⟨fun hc x => ?eos, fun hc x => ?ioerr, fun hc => ?cancelled⟩
  case eos =>
    have hr : s.inReady = true := (inReady_iff s).mpr ⟨hp, hc⟩
    exact hended .eos ▸ decode_exec_of_move hr (decodeToken_eos _ _ _ x) (.eos x hr rfl)
  case ioerr =>
    have hr : s.inReady = true := (inReady_iff s).mpr ⟨hp, hc⟩
    exact hended .io ▸ decode_exec_of_move hr (decodeToken_ioerr _ _ _ x) (.ioerr x hr rfl)
  case cancelled =>
    have m : BlockMove Edge.idle s (s.streamError .cancelled) := .cancelTake hp hc rfl
    exact hended .cancelled ▸ (blockStep_cancel hp hc).symm.trans m.blockStep

end Sys2Proof.Machine
end

section
/-! PROOFS. Runs over a stream that offers one byte at each edge: noise is skipped, a frame is captured; O56 and O57. -/

namespace Sys2Proof.Machine

/-! ### A stream of bytes -/

/-- The state with these bytes offered next, one at each edge, and no output at the last edge. -/
def State.onStream (s : State) (bs : List Byte) (rest : List Edge) : State :=
  { s with edges := bs.map byteEdge ++ rest, out := ⟨none, none, none⟩ }

/-- A step that takes a byte off the stream is the block's move at its edge. -/
theorem step_onStream {s t : State} {b : Byte} {bs : List Byte} {rest : List Edge} (hd : s.dec = none)
    (m : BlockMove (byteEdge b) (s.onStream bs rest) t) : step (s.onStream (b :: bs) rest) = .next t :=
  (step_cons (s := s.onStream bs rest) hd (byteEdge b) (bs.map byteEdge ++ rest)).trans m.blockStep

theorem runSteps_succ_of_step {s t : State} (h : step s = .next t) (n : Nat) : runSteps (n + 1) s = runSteps n t := by
  rw [runSteps, h, andThen_of_next]

/-- The outputs of the last edge, which the first step replaces, do not matter to a run that takes a byte. -/
theorem runSteps_eq_onStream {s : State} {bs : List Byte} {rest : List Edge} (hd : s.dec = none) (hbs : bs ≠ [])
    (he : s.edges = bs.map byteEdge ++ rest) : runSteps bs.length s = runSteps bs.length (s.onStream bs rest) := by
  obtain ⟨b, bs, rfl⟩ := List.exists_cons_of_ne_nil hbs
  have hstep : step s = step (s.onStream (b :: bs) rest) := by
    rw [step_eq_edgeStep hd, step_eq_edgeStep (s := s.onStream (b :: bs) rest) hd]
    simp only [State.atEdge, State.nextEdge, he]
    rfl
  rw [List.length_cons, runSteps, runSteps, hstep]

/-! ### Noise -/

theorem runSteps_noise {s : State} {noise : List Byte} {rest : List Edge} (hd : s.dec = none) (hr : s.inReady = true)
    (hs : s.sync = .seek) (hn : noCandidate s.win noise = true) :
    runSteps noise.length (s.onStream noise rest) = .next (State.onStream { s with
      cntSeek := s.cntSeek + BitVec.ofNat 32 noise.length, win := noise.getLastD s.win } [] rest) := by
  induction noise generalizing s with
  | nil => simp [runSteps]
  | cons b bs ih =>
    simp only [noCandidate, Bool.and_eq_true, Bool.not_eq_true'] at hn
    obtain ⟨hcand, hn⟩ := hn
    have hstep := step_onStream (bs := bs) (rest := rest) hd (.seekByte b hr rfl hs hcand)
    have hcount : s.cntSeek + 1#32 + BitVec.ofNat 32 bs.length = s.cntSeek + BitVec.ofNat 32 (bs.length + 1) := by
      rw [BitVec.add_assoc, Nat.add_comm, BitVec.ofNat_add]
    rw [List.length_cons, runSteps_succ_of_step hstep, List.getLastD_cons, ← hcount]
    exact ih (s := { s with cntSeek := s.cntSeek + 1#32, win := b }) hd hr hs hn

/-- Settles O56, by induction on the noise. -/
theorem noiseIsSkipped : Obligations.NoiseIsSkipped := by
  intro s noise rest hd hr hs hne hn he
  rw [runSteps_eq_onStream hd hne he]
  exact runSteps_noise hd hr hs hn

/-! ### A frame -/

/-- The state that the last byte of a capture leaves, where `bs` stood before it (40_synchronizer.md R73 to R75). -/
def State.bodyCaptured (s : State) (bs : List Byte) (b : Byte) : State :=
  State.captureComplete (s.wp + BitVec.ofNat 12 bs.length + 1#12) { s with
    fb := Memory.writeList s.fb s.wp.toNat (bs ++ [b]), wp := s.wp + BitVec.ofNat 12 bs.length, rem := 0#12 }

theorem runSteps_body {s : State} {bs : List Byte} {b : Byte} {rest : List Edge} (hd : s.dec = none)
    (hr : s.inReady = true) (hs : s.sync = .body) (hrem : s.rem.toNat = bs.length + 1)
    (hroom : s.wp.toNat + bs.length < Config.fbBytes) :
    runSteps (bs.length + 1) (s.onStream (bs ++ [b]) rest) = .next ((s.bodyCaptured bs b).onStream [] rest) := by
  induction bs generalizing s with
  | nil =>
    have hm : s.rem = 1#12 := BitVec.eq_of_toNat_eq hrem
    have hstep := step_onStream (bs := []) (rest := rest) hd (.bodyLast b hr rfl hs hm hroom)
    refine (runSteps_succ_of_step hstep 0).trans ?_
    simp [runSteps, State.bodyCaptured, State.captureComplete, State.onStream, Memory.writeList]
  | cons c bs ih =>
    rw [List.length_cons] at hrem hroom
    have hm : 1 < s.rem.toNat := by omega
    have hw : s.wp.toNat < Config.fbBytes := by omega
    have hwp : (s.wp + 1#12).toNat = s.wp.toNat + 1 := toNat_add_one hw
    have hrem' : (s.rem - 1#12).toNat = s.rem.toNat - 1 := BitVec.toNat_sub_of_le (Nat.le_of_lt hm)
    have hend : s.wp + 1#12 + BitVec.ofNat 12 bs.length = s.wp + BitVec.ofNat 12 (bs.length + 1) := by
      rw [BitVec.add_assoc, Nat.add_comm, BitVec.ofNat_add]
    have hstep := step_onStream (bs := bs ++ [b]) (rest := rest) hd (.bodyByte c hr rfl hs hm hw)
    have hrun := ih (s := { s with
        fb := Memory.write s.fb s.wp.toNat c, wp := s.wp + 1#12, rem := s.rem - 1#12 }) hd hr hs
      (by simp only [hrem']; omega) (by simp only [hwp]; omega)
    rw [List.length_cons, List.cons_append, runSteps_succ_of_step hstep]
    refine hrun.trans ?_
    simp only [State.bodyCaptured, hwp, hend]
    rfl

/-- The state that a start candidate leaves, both of its bytes taken in SEEK (40_synchronizer.md R70, R71). -/
def State.captureOpened (s : State) (c : Byte) : State :=
  { s with
    cntSeek := s.cntSeek + 2#32, win := c, fb := Memory.writeList s.fb 0 [Config.startTag, c], wp := 2#12, sync := .len }

theorem runSteps_start {s : State} {c : Byte} {bs : List Byte} {rest : List Edge} (hd : s.dec = none)
    (hr : s.inReady = true) (hs : s.sync = .seek) (hc : c.extractLsb' 4 4 = Config.formatNibble) (n : Nat) :
    runSteps (n + 2) (s.onStream (Config.startTag :: c :: bs) rest) = runSteps n ((s.captureOpened c).onStream bs rest) := by
  have htag : startCandidate s.win Config.startTag = false :=
    Bool.eq_false_iff.mpr fun h => absurd (startCandidate_iff.mp h).2 (by decide)
  have hcand : startCandidate Config.startTag c = true := startCandidate_iff.mpr ⟨rfl, hc⟩
  have hfirst := step_onStream (bs := c :: bs) (rest := rest) hd (.seekByte _ hr rfl hs htag)
  have hsecond := step_onStream (s := { s with cntSeek := s.cntSeek + 1#32, win := Config.startTag }) (bs := bs)
    (rest := rest) hd (.seekStart c hr rfl hs hcand)
  have hcount : s.cntSeek + 2#32 = s.cntSeek + 1#32 + 1#32 := (BitVec.add_assoc s.cntSeek 1#32 1#32).symm
  refine (runSteps_succ_of_step hfirst (n + 1)).trans ((runSteps_succ_of_step hsecond n).trans ?_)
  rw [State.captureOpened, hcount]
  rfl

/-- A whole capture takes the three bytes that size it and those still due then (40_synchronizer.md R72, R75). -/
theorem captureSize_eq_bytesDue (len : BitVec 11) : captureSize len = (bytesDue len).toNat + 3 := by
  by_cases hdue : bytesDue len = 0#12
  · rw [captureSize_of_nothingDue hdue, hdue]
    rfl
  · have hlen : 2 ≤ len.toNat := Nat.le_of_not_lt (mt (bytesDue_eq_zero_iff len).mpr hdue)
    rw [captureSize_of_pos (by omega), bytesDue_toNat]
    omega

/-- The state with a whole frame captured; `wp` and `rem` tell nothing any more (40_synchronizer.md R75). -/
def State.frameCaptured (s : State) (frame : List Byte) (wp rem : FbIndex) : State :=
  { s with
    phase := .decode, sync := .seek, win := 0x00#8, flen := frameLength (byteAt frame 1) (byteAt frame 2)
    wp := wp, rem := rem, fbLen := BitVec.ofNat 12 frame.length, cntSeek := s.cntSeek + 2#32
    cntCap := s.cntCap + 1#32, fb := Memory.writeList s.fb 0 frame }

/-- After the start candidate, the length byte and the bytes it declares due complete the capture. -/
theorem runSteps_sized {s : State} {c l : Byte} {body : List Byte} {rest : List Edge} (hd : s.dec = none)
    (hr : s.inReady = true) (hbody : body.length = (bytesDue (frameLength c l)).toNat) :
    ∃ wp rem, runSteps (body.length + 1) ((s.captureOpened c).onStream (l :: body) rest) =
      .next ((s.frameCaptured (Config.startTag :: c :: l :: body) wp rem).onStream [] rest) := by
  have hread : fbRead (s.captureOpened c).fb 1 = c := by
    simp [State.captureOpened, Memory.writeList, fbRead_write]
  obtain rfl | ⟨bs, b, rfl⟩ := List.eq_nil_or_concat' body
  · have hdue : bytesDue (frameLength (fbRead (s.captureOpened c).fb 1) l) = 0#12 := by
      rw [hread]
      exact BitVec.eq_of_toNat_eq hbody.symm
    have hstep := step_onStream (s := s.captureOpened c) (bs := []) (rest := rest) hd (.lenDone l hr rfl rfl hdue)
    refine ⟨3#12, s.rem, (runSteps_succ_of_step hstep 0).trans ?_⟩
    simp only [State.onStream, hread]
    rfl
  · rw [List.length_append, List.length_singleton] at hbody ⊢
    have hdue : bytesDue (frameLength (fbRead (s.captureOpened c).fb 1) l) ≠ 0#12 := by
      rw [hread]
      intro h0
      simp [h0] at hbody
    have hstep := step_onStream (s := s.captureOpened c) (bs := bs ++ [b]) (rest := rest) hd
      (.lenBody l hr rfl rfl hdue)
    have hroom : 3 + bs.length < Config.fbBytes := by
      have hlen := (frameLength c l).isLt
      rw [bytesDue_toNat] at hbody
      change 3 + bs.length < 2049
      omega
    have hrun := runSteps_body (rest := rest) (s := { s.captureOpened c with
      fb := Memory.write (s.captureOpened c).fb 2 l, flen := frameLength c l, wp := 3#12
      rem := bytesDue (frameLength c l), sync := .body }) (b := b) hd hr rfl hbody.symm hroom
    have hlength : (Config.startTag :: c :: l :: (bs ++ [b])).length = 3 + bs.length + 1 := by
      simp only [List.length_cons, List.length_append, List.length_nil]
      omega
    have hsize : 3#12 + BitVec.ofNat 12 bs.length + 1#12 =
        BitVec.ofNat 12 (Config.startTag :: c :: l :: (bs ++ [b])).length := by
      rw [hlength, BitVec.ofNat_add, BitVec.ofNat_add]
    refine ⟨3#12 + BitVec.ofNat 12 bs.length, 0#12, (runSteps_succ_of_step hstep _).trans ?_⟩
    simp only [State.frameCaptured, ← hsize, State.onStream, hread]
    exact hrun

theorem exists_cons_of_captureSize {frame : List Byte} {len : BitVec 11} (h : frame.length = captureSize len) :
    ∃ a c l body, frame = a :: c :: l :: body ∧ body.length = (bytesDue len).toNat := by
  rw [captureSize_eq_bytesDue] at h
  match frame, h with
  | a :: c :: l :: body, h => exact ⟨a, c, l, body, rfl, by simpa using h⟩

/-- The buffer has room for every frame: the longest is 2049 bytes (20_memory.md R38). -/
theorem captureSize_le (len : BitVec 11) : captureSize len ≤ Config.fbBytes := by
  have hlen : len.toNat < 2048 := len.isLt
  rw [captureSize_eq_bytesDue, bytesDue_toNat]
  change len.toNat - 1 + 3 ≤ 2049
  omega

/-- Settles O57: the start candidate, the length byte and the body, one after another. -/
theorem frameOnTheStreamIsCaptured : Obligations.FrameOnTheStreamIsCaptured := by
  intro s frame rest hd hr hs h0 h1 hsize he
  have hroom : 0 + frame.length ≤ Config.fbBytes := by
    rw [Nat.zero_add, hsize]
    exact captureSize_le _
  obtain ⟨a, c, l, body, rfl, hbody⟩ := exists_cons_of_captureSize hsize
  obtain rfl : a = Config.startTag := h0
  obtain ⟨wp, rem, hrun⟩ := runSteps_sized (c := c) (l := l) (rest := rest) hd hr hbody
  rw [runSteps_eq_onStream hd (List.cons_ne_nil _ _) he]
  refine ⟨_, (runSteps_start hd hr hs h1 (body.length + 1)).trans hrun, rfl, fun i => ?_⟩
  have hread := fbRead_writeList (Config.startTag :: c :: l :: body) hroom s.fb i
  simp only [Nat.zero_le, true_and, Nat.zero_add, Nat.sub_zero] at hread
  exact hread

end Sys2Proof.Machine
end

section
/-! PROOFS. What each wire row of the frame does from the cursor, check by check, and the decode they make up row by row; O12 to
O17, O26, O29 and O30. -/

namespace Sys2Proof.Machine

/-! ### A wire row inside a decode step -/

/-- A wire row's meaning is its effect on the locals of the decode step (log entry 2). -/
theorem exec_wireRow {i : Instr} {p : Place} (hi : portOf i = .wire p) (s : State) : exec i s = s.runDec (readWire s i) := by
  cases i with
  | startTag | frameInfo | destAddr | srcAddr | control | hcs | metaBlock | msgTs | count => rfl
  | variant1 | variant9 | variant13 | variant14 | variant18 | variantUnsupported => rfl
  | itemText | itemU32 | itemS32 | itemETs | fcsEndTag => rfl
  | _ => cases hi

theorem portOf_wireInstr (s : State) (d : Dec) (p : Place) : portOf (s.wireInstr d p) = .wire p := by
  cases p with
  | body =>
    rw [wireInstr_body, variantOf]
    split_ifs <;> rfl
  | _ => rfl

section

variable {s : State} {d : Dec} {i : Instr} {p : Place}

theorem exec_of_readWire_ok {d1 : Dec} (hd : s.dec = some d) (hi : portOf i = .wire p) (h : readWire s i d = .ok d1) :
    exec i s = .next { s with dec := some d1 } :=
  (exec_wireRow hi s).trans (runDec_some_ok hd h)

theorem exec_of_readWire_error {e : Err} (hd : s.dec = some d) (hi : portOf i = .wire p) (h : readWire s i d = .error e) :
    exec i s = .next (s.frameError e) :=
  (exec_wireRow hi s).trans (runDec_some_error hd h)

end

/-! ### The primitives, by outcome (41_decoder_frame.md R81 to R83) -/

section

variable {n k : Nat} {v b : Byte} {f : Field} {put : Rec → Rec} {d : Dec}

theorem expect_of_lt (h : n < d.cur + 1) : expect n v b f d = .error (.format .overrun f d.cur 0x00#8) :=
  expect_error.mpr (.inl ⟨h, rfl⟩)

theorem expect_of_ne (h : d.cur + 1 ≤ n) (hb : b ≠ v) : expect n v b f d = .error (.format .tagMismatch f d.cur b) :=
  expect_error.mpr (.inr ⟨h, hb, rfl⟩)

theorem expect_of_eq (h : d.cur + 1 ≤ n) (hb : b = v) : expect n v b f d = .ok (d.advance 1) :=
  expect_ok.mpr ⟨h, hb, rfl⟩

theorem readField_of_lt (h : n < d.cur + k) : readField n k f put d = .error (.format .overrun f d.cur 0x00#8) :=
  readField_error.mpr ⟨h, rfl⟩

theorem readField_of_le (h : d.cur + k ≤ n) :
    readField n k f put d = .ok { d with cur := d.cur + k, record := (put d.record).mark f } :=
  readField_ok.mpr ⟨h, rfl⟩

end

/-- A tag, and then a field of `k` bytes, as the item count and the timestamps are read (41_decoder_frame.md R90, R92). -/
def readTagged (n k : Nat) (v tag : Byte) (f : Field) (put : Rec → Rec) (d : Dec) : Except Err Dec :=
  (expect n v tag f d).bind (readField n k f put)

theorem readTimestamp_eq_readTagged (n : Nat) (tag : Byte) (f : Field) (put : Rec → Rec) (d : Dec) :
    readTimestamp n tag f put d = readTagged n Config.tsBytes Config.tagOctets tag f put d := by
  unfold readTimestamp readTagged
  cases expect n Config.tagOctets tag f d <;> rfl

theorem readCount_eq_readTagged (n : Nat) (tag v : Byte) (d : Dec) :
    readCount n tag v d = readTagged n 1 Config.tagCount tag .count (fun r => { r with count := v }) d := by
  unfold readCount readTagged
  cases expect n Config.tagCount tag .count d <;> rfl

theorem readStartTag_eq_map (n : Nat) (tag : Byte) (d : Dec) :
    readStartTag n tag d =
      (expect n Config.startTag tag .startTag d).map fun d1 => { d1 with record := d1.record.mark .startTag } := by
  unfold readStartTag
  cases expect n Config.startTag tag .startTag d <;> rfl

/-- The footer, once its two FCS bytes are read: the end tag, and the frame's end after it (41_decoder_frame.md R93). -/
theorem readFcsEndTag_of_le {s : State} {d : Dec} (h : d.cur + 2 ≤ s.fbLen.toNat) (fcs : BitVec 16) (tag : Byte) :
    readFcsEndTag s fcs tag d =
      (expect s.fbLen.toNat Config.endTag tag .endTag
        { d with cur := d.cur + 2, record := Rec.mark .fcs { d.record with fcs := fcs } }).bind fun d2 =>
          if d2.cur = s.fbLen.toNat then .ok { d2 with record := d2.record.mark .endTag }
          else .error (.format .trailing .frameEnd d2.cur (s.frameByte d2.cur)) := by
  simp only [readFcsEndTag, readField_of_le h]
  cases expect s.fbLen.toNat Config.endTag tag .endTag _ <;> rfl

/-! ### The rows of the frame, by outcome -/

section

variable {s : State} {d : Dec} {i : Instr} {p : Place} {f : Field} {k : Nat} {put : Rec → Rec}

/-- A row that reads one field raw: an OVERRUN at the cursor, or the field written. -/
theorem exec_rawRow (hd : s.dec = some d) (hi : portOf i = .wire p)
    (hrow : readWire s i d = readField s.fbLen.toNat k f put d) :
    (s.fbLen.toNat < d.cur + k → exec i s = .next (s.frameError (.format .overrun f d.cur 0x00#8))) ∧
    (d.cur + k ≤ s.fbLen.toNat →
      exec i s = .next { s with dec := some { d with cur := d.cur + k, record := (put d.record).mark f } }) :=
  ⟨fun h => exec_of_readWire_error hd hi (hrow.trans (readField_of_lt h)),
    fun h => exec_of_readWire_ok hd hi (hrow.trans (readField_of_le h))⟩

/-- A row that expects a tag and reads one field after it: the three errors in the order they are looked for, or the field
written (60_exceptions.md R133 item 2). -/
theorem exec_taggedRow {v tag : Byte} (hd : s.dec = some d) (hi : portOf i = .wire p)
    (hrow : readWire s i d = readTagged s.fbLen.toNat k v tag f put d) :
    (s.fbLen.toNat < d.cur + 1 → exec i s = .next (s.frameError (.format .overrun f d.cur 0x00#8))) ∧
    (d.cur + 1 ≤ s.fbLen.toNat → tag ≠ v → exec i s = .next (s.frameError (.format .tagMismatch f d.cur tag))) ∧
    (d.cur + 1 ≤ s.fbLen.toNat → s.fbLen.toNat < d.cur + 1 + k → tag = v →
      exec i s = .next (s.frameError (.format .overrun f (d.cur + 1) 0x00#8))) ∧
    (d.cur + 1 + k ≤ s.fbLen.toNat → tag = v →
      exec i s = .next { s with dec := some { d with cur := d.cur + 1 + k, record := (put d.record).mark f } }) := by
  unfold readTagged at hrow
  refine ⟨fun h => ?noTag, fun h htag => ?otherTag, fun h hend htag => ?noField, fun hend htag => ?read⟩
  case noTag =>
    rw [expect_of_lt h] at hrow
    exact exec_of_readWire_error hd hi hrow
  case otherTag =>
    rw [expect_of_ne h htag] at hrow
    exact exec_of_readWire_error hd hi hrow
  case noField =>
    rw [expect_of_eq h htag] at hrow
    exact exec_of_readWire_error hd hi (hrow.trans (readField_of_lt (d := d.advance 1) hend))
  case read =>
    rw [expect_of_eq (by omega) htag] at hrow
    exact exec_of_readWire_ok hd hi (hrow.trans (readField_of_le (d := d.advance 1) hend))

end

/-- Settles O12. -/
theorem startTagIsExpected : Obligations.StartTagIsExpected := by
  intro s d tag hd
  have hrow : readWire s (.startTag tag) d = _ := readStartTag_eq_map s.fbLen.toNat tag d
  refine ⟨rfl, fun h => ?overrun, fun h htag => ?mismatch, fun h htag => ?read⟩
  case overrun =>
    rw [expect_of_lt h] at hrow
    exact exec_of_readWire_error hd rfl hrow
  case mismatch =>
    rw [expect_of_ne h htag] at hrow
    exact exec_of_readWire_error hd rfl hrow
  case read =>
    rw [expect_of_eq h htag] at hrow
    exact exec_of_readWire_ok hd rfl hrow

/-- Settles O13. -/
theorem frameInfoIsReadAndChecked : Obligations.FrameInfoIsReadAndChecked := by
  intro s d b1 b2 hd i
  have hrow : readWire s i d = _ := readFrameInfo_eq s d b1 b2
  refine ⟨fun h1 h2 => ?bits, fun h => ?overrun, fun h (hlen : _ ≠ (frameLength b1 b2).toNat + 2) => ?length,
    fun h (hlen : _ = (frameLength b1 b2).toNat + 2) => ?read⟩
  case bits =>
    rw [wireInstr_frameInfo, h1, h2]
    rfl
  case overrun =>
    rw [if_pos h] at hrow
    exact exec_of_readWire_error hd rfl hrow
  case length =>
    rw [if_neg (Nat.not_lt.mpr h), if_pos hlen] at hrow
    exact exec_of_readWire_error hd rfl hrow
  case read =>
    rw [if_neg (Nat.not_lt.mpr h), if_neg (not_not.mpr hlen)] at hrow
    exact exec_of_readWire_ok hd rfl hrow

/-- Settles O14. -/
theorem rawFieldsAreReadAsTheyStand : Obligations.RawFieldsAreReadAsTheyStand := by
  intro s d v dst src llc w rsv hd reads
  refine ⟨rfl, rfl, rfl, rfl, rfl, ?dest, ?src, ?control, ?hcs, ?link⟩
  case dest => exact exec_rawRow (put := fun r => { r with hdr := { r.hdr with dest := v } }) hd rfl rfl
  case src => exact exec_rawRow (put := fun r => { r with hdr := { r.hdr with src := w } }) hd rfl rfl
  case control => exact exec_rawRow (put := fun r => { r with hdr := { r.hdr with ctrl := v } }) hd rfl rfl
  case hcs => exact exec_rawRow (put := fun r => { r with hdr := { r.hdr with hcs := w } }) hd rfl rfl
  case link => exact exec_rawRow (put := fun r => { r with link := ⟨dst, src, llc, rsv⟩ }) hd rfl rfl

/-- Settles O15. -/
theorem timestampItemsAreRead : Obligations.TimestampItemsAreRead := by
  intro s d tag v hd
  obtain ⟨mNoTag, mOther, mNoField, mRead⟩ := exec_taggedRow (i := .msgTs tag v) hd rfl (readTimestamp_eq_readTagged ..)
  obtain ⟨eNoTag, eOther, eNoField, eRead⟩ := exec_taggedRow (i := .itemETs tag v) hd rfl (readTimestamp_eq_readTagged ..)
  exact ⟨rfl, rfl, fun h => ⟨mNoTag h, eNoTag h⟩, fun h htag => ⟨mOther h htag, eOther h htag⟩,
    fun h hend htag => ⟨mNoField h hend htag, eNoField h hend htag⟩, fun hend htag => ⟨mRead hend htag, eRead hend htag⟩⟩

/-- Settles O16. -/
theorem countIsReadWhateverItsValue : Obligations.CountIsReadWhateverItsValue := by
  intro s d tag v hd
  obtain ⟨noTag, otherTag, noField, read⟩ := exec_taggedRow (i := .count tag v) hd rfl (readCount_eq_readTagged ..)
  exact ⟨rfl, noTag, otherTag, fun h => noField (by omega) (by omega), read⟩

/-- Settles O17. -/
theorem footerEndsTheFrame : Obligations.FooterEndsTheFrame := by
  intro s d fcs tag hd
  have hrow (h : d.cur + 2 ≤ s.fbLen.toNat) : readWire s (.fcsEndTag fcs tag) d = _ := readFcsEndTag_of_le h fcs tag
  refine ⟨rfl, fun h => ?noFcs, fun h => ?noTag, fun h htag => ?otherTag, fun h htag => ?trailing, fun h htag => ?ended⟩
  case noFcs =>
    have hfcs : readFcsEndTag s fcs tag d = .error (.format .overrun .fcs d.cur 0x00#8) := by
      rw [readFcsEndTag, readField_of_lt h]
    exact exec_of_readWire_error hd rfl hfcs
  case noTag =>
    refine exec_of_readWire_error hd rfl ((hrow (by omega)).trans ?_)
    rw [expect_of_lt (h.trans_lt (Nat.lt_succ_self _))]
    rfl
  case otherTag =>
    refine exec_of_readWire_error hd rfl ((hrow (by omega)).trans ?_)
    rw [expect_of_ne h htag]
    rfl
  case trailing =>
    refine exec_of_readWire_error hd rfl ((hrow (by omega)).trans ?_)
    rw [expect_of_eq (Nat.le_of_lt h) htag]
    refine (if_neg (Nat.ne_of_lt h)).trans ?_
    have hbyte : s.frameByte (d.cur + 3) = fbRead s.fb (d.cur + 3) := if_pos h
    rw [← hbyte]
    rfl
  case ended =>
    refine exec_of_readWire_ok hd rfl ((hrow (by omega)).trans ?_)
    rw [expect_of_eq (Nat.le_of_eq h) htag]
    exact if_pos h

/-! ### The first failing check -/

/-- Settles O26. -/
theorem decodeReportsTheFirstFailingCheck : Obligations.DecodeReportsTheFirstFailingCheck := by
  intro s e
  rw [decodeFrame_eq]
  cases s.firstError <;> simp

/-! ### The bytes a decode reads (41_decoder_frame.md R84) -/

theorem wireInstr_eq_of_frameByte {s t : State} (hb : s.frameByte = t.frameByte) (d : Dec) (p : Place) :
    s.wireInstr d p = t.wireInstr d p := by
  cases p <;> simp only [State.wireInstr, State.window, hb]

theorem readItems_eq_of_frameByte {s t : State} (hn : s.fbLen = t.fbLen) (hb : s.frameByte = t.frameByte)
    (ps : List Place) (d : Dec) : readItems s ps d = readItems t ps d := by
  induction ps generalizing d with
  | nil => rfl
  | cons p rest ih => simp only [readItems, wireInstr_eq_of_frameByte hb, hn, ih]

theorem readWire_eq_of_frameByte {s t : State} (hn : s.fbLen = t.fbLen) (hb : s.frameByte = t.frameByte)
    (i : Instr) (d : Dec) : readWire s i d = readWire t i d := by
  unfold readWire
  cases i with
  | variant1 | variant9 | variant13 | variant14 | variant18 => exact readItems_eq_of_frameByte hn hb _ _
  | fcsEndTag => simp only [readFcsEndTag, hn, hb]
  | _ => simp only [hn]

theorem readPlaces_eq_of_frameByte {s t : State} (hn : s.fbLen = t.fbLen) (hb : s.frameByte = t.frameByte)
    (ps : List Place) (d : Dec) : readPlaces s ps d = readPlaces t ps d := by
  induction ps generalizing d with
  | nil => rfl
  | cons p rest ih => simp only [readPlaces, wireInstr_eq_of_frameByte hb, readWire_eq_of_frameByte hn hb, ih]

/-- Settles O29: the rows look at the buffer through `State.frameByte` alone, which is 0 past the frame. -/
theorem decodeReadsOnlyTheCapturedBytes : Obligations.DecodeReadsOnlyTheCapturedBytes := by
  intro s t hn hfb
  have hb : s.frameByte = t.frameByte := by
    funext a
    simp only [State.frameByte, ← hn]
    split
    · exact hfb a ‹_›
    · rfl
  simp only [decodeFrame_eq_map, readPlaces_eq_of_frameByte hn hb]

/-! ### The decode row by row (log entry 2) -/

/-- The locals with other places still to read. -/
def Dec.withTodo (todo : List Place) (d : Dec) : Dec := { d with todo := todo }

theorem wireInstr_withTodo (s : State) (todo : List Place) (d : Dec) (p : Place) :
    s.wireInstr (d.withTodo todo) p = s.wireInstr d p := by
  cases p <;> rfl

theorem readItems_withTodo {s : State} {ps : List Place} (hps : ∀ p ∈ ps, isItemPlace p = true) (todo : List Place)
    (d : Dec) : readItems s ps (d.withTodo todo) = (readItems s ps d).map (Dec.withTodo todo) := by
  induction ps generalizing d with
  | nil => rfl
  | cons p rest ih =>
    obtain ⟨hp, hrest⟩ := List.forall_mem_cons.mp hps
    have hcur : (d.withTodo todo).cur = d.cur := rfl
    simp only [readItems, readItem_eq hp, hcur]
    cases s.itemError p d.cur with
    | none => exact ih hrest { d with cur := d.cur + s.itemSize p d.cur, record := s.itemRecord p d.cur d.record }
    | some e => rfl

/-- No row looks at the places still to read, or changes them. -/
theorem readWire_withTodo (s : State) (p : Place) (todo : List Place) (d : Dec) :
    readWire s (s.wireInstr d p) (d.withTodo todo) = (readWire s (s.wireInstr d p) d).map (Dec.withTodo todo) := by
  by_cases hp : p = .body
  · subst hp
    rw [wireInstr_body]
    cases hshape : variantShape d.record.count with
    | none => simp only [readWire_variantOf_none hshape]; rfl
    | some shape =>
      obtain ⟨code, items, mask⟩ := shape
      simp only [readWire_variantOf hshape, readVariant]
      exact readItems_withTodo (isItemPlace_of_variantShape hshape) todo { d with record := { d.record with variant := code } }
  · have hread := readWire_eq (s := s) hp (d.withTodo todo)
    have hcur : (d.withTodo todo).cur = d.cur := rfl
    rw [wireInstr_withTodo, hcur] at hread
    rw [hread, readWire_eq hp]
    cases s.placeError p d.cur <;> rfl

/-- The state after a decode: the record committed, or the error taken (43_reader_loop.md R107, R108). -/
def State.endDecode (s : State) (read : Except Err Dec) : State :=
  match read with
  | .ok d => s.commit d.record
  | .error e => s.frameError e

theorem runRows_of_dec_none {s : State} (hd : s.dec = none) (k : Nat) : runRows k s = .next s := by
  cases k with
  | zero => rfl
  | succ k => simp only [runRows, hd]

theorem runRows_succ {s : State} {d : Dec} (hd : s.dec = some d) (k : Nat) :
    runRows (k + 1) s = andThen (step s) (runRows k) := by
  simp only [runRows, hd]

/-- One row of a decode step in progress: the row's locals, or the decode ended by its error. -/
theorem step_row (s : State) (p : Place) (rest : List Place) (d : Dec) :
    step { s with dec := some (d.withTodo (p :: rest)) } =
      match readWire s (s.wireInstr d p) d with
      | .ok d1 => .next { s with dec := some (d1.withTodo rest) }
      | .error e => .next (s.frameError e) := by
  have hinstr : State.wireInstr { s with dec := some (d.withTodo (p :: rest)) } (d.withTodo (p :: rest)) p = s.wireInstr d p :=
    (wireInstr_congr rfl rfl _ p).trans (wireInstr_withTodo s (p :: rest) d p)
  have hread : readWire { s with dec := some (d.withTodo rest) } (s.wireInstr d p) (d.withTodo rest) =
      (readWire s (s.wireInstr d p) d).map (Dec.withTodo rest) :=
    (readWire_congr rfl rfl _ _).trans (readWire_withTodo s p rest d)
  have hstep : step { s with dec := some (d.withTodo (p :: rest)) } =
      exec (s.wireInstr d p) { s with dec := some (d.withTodo rest) } := by
    rw [← hinstr]
    rfl
  have hport := portOf_wireInstr s d p
  rw [hstep]
  cases h : readWire s (s.wireInstr d p) d with
  | ok d1 => exact exec_of_readWire_ok rfl hport (hread.trans (by rw [h]; rfl))
  | error e => exact exec_of_readWire_error rfl hport (hread.trans (by rw [h]; rfl))

/-- The rows of the places still to read, and the commit after them, are those places read at once. -/
theorem runRows_withTodo (s : State) (ps : List Place) (d : Dec) :
    runRows (ps.length + 1) { s with dec := some (d.withTodo ps) } = .next (s.endDecode (readPlaces s ps d)) := by
  induction ps generalizing d with
  | nil => rfl
  | cons p rest ih =>
    rw [List.length_cons, runRows_succ rfl, step_row, readPlaces]
    cases readWire s (s.wireInstr d p) d with
    | ok d1 => exact ih d1
    | error e => exact runRows_of_dec_none rfl _

/-- Settles O30. -/
theorem decodeRowByRowIsTheDecodeStep : Obligations.DecodeRowByRowIsTheDecodeStep := by
  intro s hphase
  have hstep : exec .decodeStep s = .next (s.endDecode (readPlaces s decodeOrder (Dec.start []))) := by
    have hexec : exec .decodeStep s = _ := if_pos hphase
    rw [hexec, State.decodeFrame]
    cases readPlaces s decodeOrder (Dec.start []) <;> rfl
  rw [hstep]
  exact runRows_withTodo s decodeOrder (Dec.start [])

end Sys2Proof.Machine
end

section
/-! PROOFS. The rows of the body: the text and integer items, and the row that the item count selects; O18, O19 and O20. -/

namespace Sys2Proof.Machine

/-! ### The integer items (42_decoder_body.md R97, R98) -/

theorem readItemU32_eq_readTagged (n : Nat) (f : U32Field) (tag : Byte) (v : Word32) (d : Dec) :
    readItemU32 n f tag v d = readTagged n 4 Config.tagInt tag (u32Field f) (fun r => r.setU32 f v) d := by
  unfold readItemU32 readTagged
  cases expect n Config.tagInt tag (u32Field f) d <;> rfl

theorem readItemS32_eq_readTagged (n : Nat) (f : S32Field) (tag : Byte) (v : Word32) (d : Dec) :
    readItemS32 n f tag v d = readTagged n 4 Config.tagInt tag (s32Field f) (fun r => r.setS32 f v) d := by
  unfold readItemS32 readTagged
  cases expect n Config.tagInt tag (s32Field f) d <;> rfl

/-- Settles O19: both kinds of item are a tag and then a field of 4 bytes. -/
theorem integerItemsReadTheirField : Obligations.IntegerItemsReadTheirField := by
  intro s d f g tag v hd word
  obtain ⟨uNoTag, uOther, uNoField, uRead⟩ := exec_taggedRow (i := .itemU32 f tag v) hd rfl (readItemU32_eq_readTagged ..)
  obtain ⟨sNoTag, sOther, sNoField, sRead⟩ := exec_taggedRow (i := .itemS32 g tag v) hd rfl (readItemS32_eq_readTagged ..)
  exact ⟨rfl, rfl, fun h => ⟨uNoTag h, sNoTag h⟩, fun h htag => ⟨uOther h htag, sOther h htag⟩,
    fun h hend htag => ⟨uNoField h hend htag, sNoField h hend htag⟩, fun hend htag => ⟨uRead hend htag, sRead hend htag⟩⟩

/-! ### The text items (42_decoder_body.md R96) -/

theorem window_add (s : State) (cur j k : Nat) : s.window cur (j + k) = s.window cur j ++ s.window (cur + j) k := by
  simp only [State.window, List.range_add, List.map_append, List.map_map, Function.comp_def, Nat.add_assoc]

/-- A text item's row: its tag and length byte, and as many bytes after them as the length byte says. -/
theorem wireInstr_text (s : State) (d : Dec) (f : TextField) :
    s.wireInstr d (.text f) = .itemText f (s.frameByte d.cur) (s.frameByte (d.cur + 1))
      (s.window (d.cur + 2) (s.frameByte (d.cur + 1)).toNat) := by
  have hsize : wireSize (.text f) (s.window d.cur 2) = 2 + (s.frameByte (d.cur + 1)).toNat := rfl
  have hrow (content : List Byte) :
      assembleWire (.text f) (s.window d.cur 2 ++ content) = .itemText f (s.frameByte d.cur) (s.frameByte (d.cur + 1))
        (content.take (s.frameByte (d.cur + 1)).toNat) := rfl
  have hcontent : (s.window (d.cur + 2) (s.frameByte (d.cur + 1)).toNat).length = (s.frameByte (d.cur + 1)).toNat := by
    simp [State.window]
  rw [State.wireInstr, hsize, window_add, hrow, List.take_of_length_le hcontent.le]
  nofun

section

variable {n : Nat} {f : TextField} {tag k : Byte} {d : Dec}

/-- A text item whose tag is missing or wrong has no error but the tag's. -/
theorem readItemText_of_expect {e : Err} (h : expect n Config.tagOctets tag (textField f) d = .error e) :
    readItemText n f tag k d = .error e := by
  rw [readItemText, h]

/-- After its tag a text item needs the length byte, and then its content. -/
theorem readItemText_of_tag (h : d.cur + 1 ≤ n) (htag : tag = Config.tagOctets) :
    readItemText n f tag k d =
      (need n 1 (textField f) (d.advance 1)).bind fun _ =>
        readField n k.toNat (textField f) (fun r => r.setText f ⟨BitVec.ofNat 12 (d.cur + 2), k⟩) (d.advance 2) := by
  simp only [readItemText, expect_of_eq h htag]
  cases need n 1 (textField f) (d.advance 1) <;> rfl

theorem readItemText_of_end (h : n = d.cur + 1) (htag : tag = Config.tagOctets) :
    readItemText n f tag k d = .error (.format .overrun (textField f) (d.cur + 1) 0x00#8) := by
  have hlen : n < (d.advance 1).cur + 1 := h.trans_lt (Nat.lt_succ_self _)
  rw [readItemText_of_tag h.ge htag, need_error.mpr ⟨hlen, rfl⟩]
  rfl

theorem readItemText_of_le (h : d.cur + 2 ≤ n) (htag : tag = Config.tagOctets) :
    readItemText n f tag k d =
      readField n k.toNat (textField f) (fun r => r.setText f ⟨BitVec.ofNat 12 (d.cur + 2), k⟩) (d.advance 2) := by
  have hlen : need n 1 (textField f) (d.advance 1) = .ok () := need_ok.mpr h
  rw [readItemText_of_tag (Nat.le_of_succ_le h) htag, hlen]
  rfl

end

/-- Settles O18: the four errors in the order they are looked for, or the field written. -/
theorem textItemRecordsWhereItStands : Obligations.TextItemRecordsWhereItStands := by
  intro s d f tag k content hd
  refine ⟨wireInstr_text s d f, fun h => ?noTag, fun h htag => ?otherTag, fun h htag => ?noLength,
    fun h hend htag => ?noContent, fun hend htag => ?read⟩
  case noTag => exact exec_of_readWire_error hd rfl (readItemText_of_expect (expect_of_lt h))
  case otherTag => exact exec_of_readWire_error hd rfl (readItemText_of_expect (expect_of_ne h htag))
  case noLength => exact exec_of_readWire_error hd rfl (readItemText_of_end h htag)
  case noContent =>
    exact exec_of_readWire_error hd rfl
      ((readItemText_of_le h htag).trans (readField_of_lt (d := d.advance 2) hend))
  case read =>
    exact exec_of_readWire_ok hd rfl
      ((readItemText_of_le (Nat.le_of_add_right_le hend) htag).trans (readField_of_le (d := d.advance 2) hend))

/-! ### The variant row (42_decoder_body.md R95) -/

/-- An unsupported item count is counted in `cnt_var`, and the block goes back to seeking (60_exceptions.md R130, R131). -/
theorem frameError_unsupportedVariant (v : Byte) (s : State) :
    s.frameError (.unsupportedVariant v) = { s with
      err := (Err.unsupportedVariant v).record
      out := { s.out with log := some (Err.unsupportedVariant v).record }
      cntVar := s.cntVar + 1#32, varSeen := true, phase := .sync, dec := none } := by
  simp [State.frameError, State.raise, State.resume, Err.isFormat, Err.isVariant, Err.isSink, tick]

/-- Settles O20. -/
theorem countSelectsTheVariant : Obligations.CountSelectsTheVariant := by
  refine ⟨fun s d => wireInstr_body s d, fun s d v hd => ?_⟩
  have hrow : readWire s (.variantUnsupported v) d = .error (.unsupportedVariant v) := rfl
  exact (exec_of_readWire_error hd rfl hrow).trans (congrArg _ (frameError_unsupportedVariant v s))

end Sys2Proof.Machine
end

section
/-! PROOFS. The exact physical values of the record's numbers; O31. -/

namespace Sys2Proof.Machine

/-- An exact quotient gives its raw number back (00_scope.md R11). -/
theorem scaled_mul_divisor (raw : Int) {divisor : Nat} (h : divisor ≠ 0) : scaled raw divisor * divisor = raw :=
  div_mul_cancel₀ _ (Nat.cast_ne_zero.mpr h)

theorem physicalU32_mul_divisor (r : Rec) (f : U32Field) :
    r.physicalU32 f * (u32Divisor f : Rat) = ((r.u32 f).toNat : Rat) := by
  have hdiv : u32Divisor f ≠ 0 := by cases f <;> decide
  exact (scaled_mul_divisor _ hdiv).trans (Int.cast_natCast _)

/-- `toSigned32` is the two's complement reading of the 32 bits (93_implementation_defined.md G4). -/
theorem toSigned32_eq_toInt (v : Word32) : toSigned32 v = v.toInt := by
  rw [toSigned32, BitVec.toInt_eq_msb_cond, BitVec.msb_eq_getLsbD_last]
  rfl

/-- Settles O31: each field's divisor, and the quotient times it. -/
theorem physicalValuesAreExactQuotients : Obligations.PhysicalValuesAreExactQuotients := by
  intro r
  have hscaled (f : U32Field) (k : Nat) (hk : u32Divisor f = k) : r.physicalU32 f * (k : Rat) = ((r.u32 f).toNat : Rat) :=
    hk ▸ physicalU32_mul_divisor r f
  refine ⟨fun f hf => ?power, fun f hf => ?voltage, fun f hf => ?energy, fun f => ?current⟩
  case power =>
    have hdiv : ∀ g ∈ ([.pImp, .pExp, .qImp, .qExp] : List U32Field), u32Divisor g = 1 := by decide
    simpa using hscaled f 1 (hdiv f hf)
  case voltage =>
    have hdiv : ∀ g ∈ ([.ul1, .ul2, .ul3] : List U32Field), u32Divisor g = 10 := by decide
    exact hscaled f 10 (hdiv f hf)
  case energy =>
    have hdiv : ∀ g ∈ ([.eAImp, .eAExp, .eRImp, .eRExp] : List U32Field), u32Divisor g = 1000 := by decide
    exact hscaled f 1000 (hdiv f hf)
  case current =>
    rw [← toSigned32_eq_toInt]
    exact scaled_mul_divisor _ (by decide : Config.divCurrent ≠ 0)

end Sys2Proof.Machine
end

section
/-! PROOFS. The record handed over at a handshake, and the count of the hand-overs; O35. -/

namespace Sys2Proof.Machine

section

variable {e : Edge} {s t : State}

/-- A handshake hands over `REC`, the sink's answer and the text bytes that stand in `FB` (43_reader_loop.md R114). -/
theorem handover_of_handshake (hr : e.resets = false) (hp : s.phase = .emit) (hk : e.sink.getLsbD 1 = true) :
    s.handover e = [.handover ⟨s.record, e.sink.getLsbD 0, s.textBytes .obisVersion, s.textBytes .meterId,
      s.textBytes .meterType⟩] := by
  have hpins : ∀ k : BitVec 2, k.getLsbD 1 = true → k = 0b10#2 ∨ k = 0b11#2 := by decide
  obtain hk | hk := hpins _ hk <;>
  · simp only [State.handover, blockInstr, hr, hp, hk, decodeSink_pins]
    rfl

theorem handover_of_reset (hr : e.resets = true) : s.handover e = [] := by simp [State.handover, hr]

/-- Only a sink's answer hands a record over: a token's word is longer, and the other rows are the block's. -/
theorem handover_of_noHandshake (h : ¬(s.phase = .emit ∧ e.sink.getLsbD 1 = true)) : s.handover e = [] := by
  have hrow {i : Instr} (hi : blockInstr e s = .ok (some i)) : i ≠ .sinkAck ∧ i ≠ .sinkFail := by
    obtain ⟨-, -, -, rfl⟩ | ⟨-, -, k, -, hk⟩ | ⟨-, -, rfl⟩ | ⟨hp, hk⟩ := blockInstr_some hi
    · exact ⟨nofun, nofun⟩
    · have hsize : (encode i).length = 2 := congrArg List.length (spells_decodeToken hk).2
      constructor <;> rintro rfl <;> simp [encode] at hsize
    · exact ⟨nofun, nofun⟩
    · rw [decodeSink_notReady (by simpa [hp] using h)] at hk
      cases hk
  unfold State.handover
  split
  · rfl
  · split
    · exact absurd rfl (hrow ‹_›).1
    · exact absurd rfl (hrow ‹_›).2
    · rfl

/-- The records the block holds for the sink: one in EMIT (10_state.md R20). -/
def Phase.held (p : Phase) : BitVec 32 := if p = .emit then 1#32 else 0#32

theorem handover_length (hr : e.resets = false) :
    BitVec.ofNat 32 (s.handover e).length = tick (s.phase == .emit && e.sink.getLsbD 1) := by
  by_cases h : s.phase = .emit ∧ e.sink.getLsbD 1 = true
  · simp [handover_of_handshake hr h.1 h.2, h, tick]
  · rw [handover_of_noHandshake h]
    grind [tick]

/-- A record is held from the decode that writes it to the handshake that hands it over (43_reader_loop.md R107, R109, R110). -/
theorem BlockMove.held (m : BlockMove e s t) :
    t.phase.held + tick (s.phase == .emit && e.sink.getLsbD 1) =
      s.phase.held + tick (s.phase == .decode && t.phase == .emit) := by
  cases m with
  | decodeOk _ hp _ _ => simp [Phase.held, tick, hp]
  | sinkAck hp hk | sinkFail hp hk => simp [Phase.held, tick, hp, hk]
  | wait hw =>
    obtain ⟨hp, -⟩ | ⟨hr, -⟩ | ⟨hp, -⟩ | ⟨-, hk⟩ | hp := hw
    · simp [tick, hp]
    · simp [tick, ((inReady_iff s).mp hr).1]
    · simp [tick, hp]
    · rw [hk]
      cases s.phase <;> simp [tick]
    · simp [tick, hp]
  | _ => simp_all [Phase.held, tick, inReady_iff]

end

/-- Settles O35. -/
theorem handOversFollowTheDecodes : Obligations.HandOversFollowTheDecodes := by
  refine ⟨?counted, fun s e => ⟨?handed, ?none⟩⟩
  case counted =>
    intro s t hd hr h
    obtain ⟨answer, u, m, ht⟩ := step_blockMove hd hr h
    have hok : u.cntOk = s.cntOk + tick (s.phase == .decode && u.phase == .emit) := m.cntOk
    have hheld : u.phase.held + tick (s.phase == .emit && s.nextEdge.sink.getLsbD 1) =
      s.phase.held + tick (s.phase == .decode && u.phase == .emit) := m.held
    rw [ht, handover_length hr]
    change u.cntOk - u.phase.held = s.cntOk - s.phase.held + _
    grind
  case handed => exact fun ⟨hr, hp, hk⟩ => handover_of_handshake hr hp hk
  case none =>
    intro hno
    cases hr : e.resets with
    | true => exact handover_of_reset hr
    | false => exact handover_of_noHandshake fun ⟨hp, hk⟩ => hno ⟨hr, hp, hk⟩

end Sys2Proof.Machine
end

section
/-! PROOFS. The reader loop: what a decode step and the sink's answers leave, the law of the counters, and the block in HALTED; O23,
O32, O34 and O51. -/

namespace Sys2Proof.Machine

/-! ### The errors of a decode (43_reader_loop.md R108) -/

theorem perFrame_of_decodeFrame {s : State} {x : Err} (h : s.decodeFrame = .error x) : x.perFrame = true :=
  perFrame_of_readPlaces (decodeFrame_error.mp h)

/-- An error of one frame counts in `cnt_fmt` or in `cnt_var`, and not in both (60_exceptions.md R131). -/
theorem tick_of_perFrame {x : Err} (h : x.perFrame = true) : tick x.isFormat + tick x.isVariant = 1#32 := by
  cases x with
  | format | unsupportedVariant => rfl
  | stream | sink => cases h

/-- An error of one frame moves the counter and the flag of its kind, leaves the sink's flag, and the block goes back to seeking. -/
theorem frameError_of_perFrame {x : Err} (h : x.perFrame = true) (s : State) :
    s.frameError x = { s with
      err := x.record
      out := { s.out with log := some x.record }
      cntFmt := if x.isFormat then s.cntFmt + 1#32 else s.cntFmt
      fmtSeen := if x.isFormat then true else s.fmtSeen
      cntVar := if x.isVariant then s.cntVar + 1#32 else s.cntVar
      varSeen := if x.isVariant then true else s.varSeen
      phase := .sync
      dec := none } := by
  cases x with
  | format => simp [State.frameError, State.raise, State.resume, Err.isFormat, Err.isVariant, Err.isSink, tick]
  | unsupportedVariant n => exact frameError_unsupportedVariant n s
  | stream | sink => cases h

theorem raise_sink_eq (s : State) :
    s.raise .sink = { s with
      err := Err.sink.record, out := { s.out with log := some Err.sink.record }, sinkSeen := true } := by
  simp [State.raise, Err.isFormat, Err.isVariant, Err.isSink, tick]

/-! ### The rows of the loop (43_reader_loop.md R107 to R110) -/

section

variable {s t : State}

/-- DECODE_STEP does what the block does at an edge where its decode ends. -/
theorem exec_decodeStep_of_move (hp : s.phase = .decode) (m : BlockMove Edge.idle s t) : exec .decodeStep s = .next t :=
  (blockStep_decode (e := Edge.idle) hp).symm.trans m.blockStep

/-- A sink row does what the block does at an edge with the pins of that row. -/
theorem exec_sinkRow_of_move {e : Edge} {i : Instr} (hp : s.phase = .emit) (hk : decodeSink (1#1 ++ e.sink) = .ok i)
    (m : BlockMove e s t) : exec i s = .next t :=
  (blockStep_handshake hp hk).symm.trans m.blockStep

end

/-- Settles O23. -/
theorem decodeStepCommitsOrReports : Obligations.DecodeStepCommitsOrReports := by
  refine fun s hp => ⟨fun r hd => ?commits, fun x hd => ⟨perFrame_of_decodeFrame hd, ?reports⟩⟩
  case commits => exact exec_decodeStep_of_move hp (.decodeOk r hp rfl hd)
  case reports =>
    rw [← frameError_of_perFrame (perFrame_of_decodeFrame hd)]
    exact exec_decodeStep_of_move hp (.decodeErr x hp rfl hd)

/-- Settles O32. -/
theorem sinkAnswersEndTheHandOver : Obligations.SinkAnswersEndTheHandOver := by
  refine fun s hp => ⟨?ack, ?fail⟩
  case ack => exact exec_sinkRow_of_move (e := { Edge.idle with sink := 0b10#2 }) hp rfl (.sinkAck hp rfl)
  case fail =>
    have hfail := exec_sinkRow_of_move (e := { Edge.idle with sink := 0b11#2 }) hp rfl (.sinkFail hp rfl)
    rw [raise_sink_eq] at hfail
    exact hfail

/-! ### The law of the counters (43_reader_loop.md R113) -/

/-- Every move of the block keeps the law: a capture is counted where it enters DECODE, and once more, as a record or as an error,
where it leaves. -/
theorem BlockMove.countersAgree {e : Edge} {s t : State} (m : BlockMove e s t) (h : s.CountersAgree) : t.CountersAgree := by
  obtain ⟨hdec, hlaw⟩ := h
  refine ⟨m.dec hdec, ?_⟩
  cases m with
  | wait => exact hlaw
  | lenDone _ hr | bodyLast _ hr =>
    have hp := ((inReady_iff s).mp hr).1
    simpa [hp] using hlaw
  | decodeOk r hp =>
    have hcap : s.cntCap = s.cntOk + s.cntFmt + s.cntVar + 1#32 := by simpa [hp] using hlaw
    change s.cntCap = s.cntOk + 1#32 + s.cntFmt + s.cntVar + 0#32
    grind
  | decodeErr x hp _ hd =>
    have hone := tick_of_perFrame (perFrame_of_decodeFrame hd)
    have hcap : s.cntCap = s.cntOk + s.cntFmt + s.cntVar + 1#32 := by simpa [hp] using hlaw
    change s.cntCap = s.cntOk + (s.cntFmt + tick x.isFormat) + (s.cntVar + tick x.isVariant) + 0#32
    grind
  | seekByte _ hr | seekStart _ hr | lenBody _ hr | bodyByte _ hr | eos _ hr | ioerr _ hr =>
    have hp := ((inReady_iff s).mp hr).1
    simpa [hp, tick] using hlaw
  | cancelTake hp | sinkAck hp | sinkFail hp => simpa [hp, tick, Err.isFormat, Err.isVariant] using hlaw

/-- Settles O51: the host reaches no counter and no phase, and a reset clears them all. -/
theorem stepKeepsTheLawOfTheCounters : Obligations.StepKeepsTheLawOfTheCounters := by
  rintro s t ⟨hdec, hlaw⟩ hstep
  cases hr : s.nextEdge.resets with
  | true => rw [step_reset hdec hr hstep]; exact ⟨rfl, rfl⟩
  | false =>
    obtain ⟨answer, u, m, ht⟩ := step_blockMove hdec hr hstep
    have hu : u.CountersAgree := m.countersAgree ⟨hdec, hlaw⟩
    rw [ht]
    exact hu

/-! ### HALTED (43_reader_loop.md R112) -/

/-- In HALTED no row of the block is enabled. -/
theorem BlockMove.eq_of_halted {e : Edge} {s t : State} (m : BlockMove e s t) (hp : s.phase = .halted) : t = s := by
  obtain ⟨hp', -⟩ | ⟨-, rfl⟩ | ⟨hp', -, -⟩ := m.halts
  · cases hp.symm.trans hp'
  · rfl
  · exact absurd hp hp'

/-- In HALTED a host write reaches the sticky flags and `FB_ADDR` alone: CTRL.CANCEL does nothing (44_host_interface.md R119). -/
theorem HostWrite.eq_of_halted {i : Instr} {u t : State} (w : HostWrite i u t) (hp : u.phase = .halted) :
    t.keepRaised = { u with
      fmtSeen := t.keepRaised.fmtSeen, varSeen := t.keepRaised.varSeen, sinkSeen := t.keepRaised.sinkSeen
      fbAddr := t.keepRaised.fbAddr } := by
  cases w with
  | cancel _ _ _ hp' => exact absurd hp hp'
  | cancelHalted | w1c | fbAddr | ignored => rfl

/-- Settles O34. -/
theorem haltedBlockDoesNothing : Obligations.HaltedBlockDoesNothing := by
  intro s hd hp
  refine ⟨by simp [State.inReady, hp], by simp [State.outValid, hp], by simp [State.halted, hp], fun hr => ?_⟩
  obtain ⟨t, ht⟩ := step_next hd fun answer => ⟨_, blockStep_halted (s := s.blockEntry answer) hp⟩
  refine ⟨t, ht, ?_⟩
  cases step_move hd ht with
  | reset h => simp [h] at hr
  | idle _ _ hh m =>
    obtain rfl := m.eq_of_halted hp
    exact ⟨rfl, rfl, by simp [hh]⟩
  | read _ v _ _ _ m =>
    obtain rfl := m.eq_of_halted hp
    exact ⟨rfl, rfl, by simp⟩
  | write i u t' _ hh m w =>
    obtain rfl := m.eq_of_halted hp
    rw [w.eq_of_halted hp]
    exact ⟨rfl, rfl, by simp [hh]⟩

end Sys2Proof.Machine
end

section
/-! PROOFS. The host's interface: the row each offset selects, what its reads answer and its writes reach, and the edge an
access shares with the block's step; O41 to O45 and O48. -/

namespace Sys2Proof.Machine

/-! ### The row of an offset (44_host_interface.md R117) -/

/-- Settles O45. -/
theorem hostAddressSelectsTheRow : Obligations.HostAddressSelectsTheRow := by
  refine fun off lo w => ⟨?write, ?read⟩
  case write => exact (decode_hostWrite (hostAddr off lo) w []).trans (congrArg _ (decodeHostWrite_hostAddr off lo w))
  case read =>
    refine (decode_hostRead (hostAddr off lo) w []).trans (congrArg _ ((decodeHostRead_hostAddr off lo w).trans ?_))
    simp only [BitVec.toNat_eq (x := off)]
    match off.toNat with
    | 0 | 1 | 2 | 3 | 4 | 5 | 6 | 7 | 8 | 9 | 10 | 11 | 12 | _ + 13 => rfl

/-- A write at an offset other than those of CTRL, STATUS and FB_ADDR, or of CTRL with no command, is ignored. -/
theorem decode_hostWriteIgnored {off : BitVec 6} {w : Word32}
    (h : off ≠ 0#6 ∧ off ≠ 1#6 ∧ off ≠ 3#6 ∨ off = 0#6 ∧ w.getLsbD 0 = false ∧ w.getLsbD 1 = false) (lo : BitVec 2) :
    decode .host (bytesHost 1#1 (off ++ lo) w) = .ok (.hostWriteIgnored (off ++ lo) w) := by
  rw [(hostAddressSelectsTheRow off lo w).1]
  obtain ⟨hctrl, hstatus, haddr⟩ | ⟨hctrl, h0, h1⟩ := h
  · simp only [hctrl, hstatus, haddr, if_false]
  · simp only [hctrl, h0, h1, Bool.false_eq_true, if_true, if_false]

/-- Settles O41: both commands stand at CTRL, and SRST outranks CANCEL. -/
theorem hostCommandsResetAndCancel : Obligations.HostCommandsResetAndCancel := by
  refine fun s lo w => ⟨fun h0 => ?srst, fun h0 h1 => ?cancel, rfl, fun hp => if_neg hp, fun hp => if_pos hp⟩
  case srst => simp only [(hostAddressSelectsTheRow 0#6 lo w).1, h0, if_true]
  case cancel => simp only [(hostAddressSelectsTheRow 0#6 lo w).1, h0, h1, Bool.false_eq_true, if_true, if_false]

/-- The flags whose bit is written 1 are cleared, and the others stay (44_host_interface.md R121). -/
theorem clearFlags_eq (w : Word32) (s : State) :
    s.clearFlags w = { s with
      fmtSeen := if w.getLsbD 8 then false else s.fmtSeen
      varSeen := if w.getLsbD 9 then false else s.varSeen
      sinkSeen := if w.getLsbD 10 then false else s.sinkSeen } := by
  have hflag (flag bit : Bool) : (flag && !bit) = if bit then false else flag := by cases bit <;> simp
  simp only [State.clearFlags, hflag]

/-- Settles O42. -/
theorem hostWritesToRegisters : Obligations.HostWritesToRegisters := by
  intro s off lo addr w
  have row (k : BitVec 6) := hostAddressSelectsTheRow k lo w
  refine ⟨(row 1).1, (row 3).1, (row 3).2, fun h => decode_hostWriteIgnored h lo, ?status, rfl, rfl, rfl⟩
  case status => exact congrArg Host.Outcome.next (clearFlags_eq w s)

/-! ### What a read answers -/

/-- FB_DATA, 0 where FB_ADDR is above the buffer (44_host_interface.md R124). -/
theorem fbData_eq (s : State) : (fbRead s.fb s.fbAddr.toNat).setWidth 32 =
    if s.fbAddr.toNat ≤ 2048 then (fbRead s.fb s.fbAddr.toNat).setWidth 32 else 0#32 :=
  (congrArg (BitVec.setWidth 32) (sbData_eq s s.fbAddr)).trans (apply_ite ..)

/-- Settles O44. -/
theorem hostReadsAnswerTheRegister : Obligations.HostReadsAnswerTheRegister := by
  intro s off lo w
  have row (k : BitVec 6) := (hostAddressSelectsTheRow k lo w).2
  refine ⟨⟨row 0, rfl⟩, ⟨row 1, rfl⟩, ⟨row 2, rfl⟩, ⟨row 3, rfl⟩, ⟨row 4, ?fbData⟩, ⟨row 5, rfl⟩, ⟨row 6, rfl⟩, ⟨row 7, rfl⟩,
    ⟨row 8, rfl⟩, ⟨row 9, rfl⟩, ⟨row 10, rfl⟩, ⟨row 11, rfl⟩, ⟨row 12, rfl⟩, fun hoff => ⟨?unmapped, rfl⟩,
    fun hctrl hstatus haddr => ⟨decode_hostWriteIgnored (.inl ⟨hctrl, hstatus, haddr⟩) lo, rfl⟩⟩
  case fbData => exact congrArg (fun v => Host.Outcome.next (s.hostReply v)) (fbData_eq s)
  case unmapped =>
    have hwf := (wf_hostReadUnmapped off lo w).mpr hoff
    exact (decode_hostRead (hostAddr off lo) w []).trans (congrArg _ (decodeHostRead_unmapped hwf))

/-- The fields of a STATUS word, low bits first (44_host_interface.md R120). Each is found by taking off the fields below it, whose
widths stay written out as a sum so that they can be taken off one at a time. -/
theorem status_fields (phase sync serr : BitVec 2) (cancel fmt var sink : Bool) :
    let v := 0#14 ++ serr ++ 0#5 ++ BitVec.ofBool sink ++ BitVec.ofBool var ++ BitVec.ofBool fmt ++ 0#3 ++
      BitVec.ofBool cancel ++ sync ++ phase
    v.extractLsb' 0 2 = phase ∧ v.extractLsb' 2 2 = sync ∧ v.getLsbD 4 = cancel ∧ v.extractLsb' 5 3 = 0#3 ∧
      v.getLsbD 8 = fmt ∧ v.getLsbD 9 = var ∧ v.getLsbD 10 = sink ∧ v.extractLsb' 11 5 = 0#5 ∧
      v.extractLsb' 16 2 = serr ∧ v.extractLsb' 18 14 = 0#14 := by
  simp (disch := decide) [BitVec.extractLsb'_append_eq_of_le, BitVec.extractLsb'_append_eq_of_add_le, BitVec.getLsbD_append,
    -Nat.reduceAdd, -BitVec.getLsbD_eq_getElem]

/-- The fields of an ERR_INFO word, low bits first (44_host_interface.md R125). -/
theorem errInfo_fields (byte : Byte) (field : BitVec 5) (reason kind : BitVec 3) :
    let v := 0#8 ++ byte ++ 0#3 ++ field ++ 0#1 ++ reason ++ 0#1 ++ kind
    v.extractLsb' 0 3 = kind ∧ v.getLsbD 3 = false ∧ v.extractLsb' 4 3 = reason ∧ v.getLsbD 7 = false ∧
      v.extractLsb' 8 5 = field ∧ v.extractLsb' 13 3 = 0#3 ∧ v.extractLsb' 16 8 = byte ∧ v.extractLsb' 24 8 = 0#8 := by
  simp (disch := decide) [BitVec.extractLsb'_append_eq_of_le, BitVec.extractLsb'_append_eq_of_add_le, BitVec.getLsbD_append,
    -Nat.reduceAdd, -BitVec.getLsbD_eq_getElem]

/-- Settles O43. -/
theorem statusAndErrorReadsGiveTheirFields : Obligations.StatusAndErrorReadsGiveTheirFields := fun s lo w =>
  have row (k : BitVec 6) := (hostAddressSelectsTheRow k lo w).2
  ⟨row 1, row 5, row 6,
    ⟨s.statusWord, rfl, status_fields s.phase.code (syncCode s.sync) s.serrCode s.cancelPending s.fmtSeen s.varSeen s.sinkSeen⟩,
    ⟨s.errInfoWord, rfl, errInfo_fields s.err.byte s.err.field s.err.reason s.err.kind⟩, rfl⟩

/-! ### The edge that a host access shares (44_host_interface.md R116) -/

/-- A host word's own bytes spell its row. -/
theorem decode_hostWord (w : HostWord) :
    decode .host (bytesHost (w.extractLsb' 40 1) (w.extractLsb' 32 8) (w.extractLsb' 0 32)) = .ok (decodeHost w) := by
  have hlow : (w.extractLsb' 32 8 ++ w.extractLsb' 0 32 : BitVec 40) = w.extractLsb' 0 40 :=
    BitVec.extractLsb'_append_extractLsb'_eq_extractLsb' rfl
  have hword : (w.extractLsb' 40 1 ++ w.extractLsb' 0 40 : HostWord) = w := BitVec.extractLsb'_append_extractLsb'
  have hread := decode_bytesHost (w.extractLsb' 40 1) (w.extractLsb' 32 8) (w.extractLsb' 0 32) []
  rwa [hlow, hword, List.append_nil] at hread

section

variable {e : Edge} {w : HostWord}

theorem hostTurn_of_read (hh : e.host = some w) (hw : w.getLsbD 40 = false) : hostTurn e = .read (decodeHost w) := by
  simp only [hostTurn, hh, hw, Bool.false_eq_true, if_false]

/-- A write replaces the block's step where it is the reset, and comes after that step otherwise. -/
theorem hostTurn_of_write (hh : e.host = some w) (hw : w.getLsbD 40 = true) (hr : e.rst = false) :
    hostTurn e = if e.resets then .srst (decodeHost w) else .write (decodeHost w) := by
  simp only [Edge.resets, hostTurn, hh, hw, hr, if_true, Bool.false_or]
  cases decodeHost w <;> rfl

end

section

variable {s : State} {i : Instr}

theorem step_of_read (hd : s.dec = none) (hr : s.nextEdge.rst = false) (hh : hostTurn s.nextEdge = .read i) :
    step s = andThen (exec i s.atEdge) (blockStep s.nextEdge) := by
  simp only [step_eq_edgeStep hd, edgeStep, hr, hh, Bool.false_eq_true, if_false]

theorem step_of_write (hd : s.dec = none) (hr : s.nextEdge.rst = false) (hh : hostTurn s.nextEdge = .write i) :
    step s = andThen (blockStep s.nextEdge s.atEdge) fun t => andThen (exec i t) fun u => .next u.keepRaised := by
  simp only [step_eq_edgeStep hd, edgeStep, hr, hh, Bool.false_eq_true, if_false]

theorem step_of_srst (hd : s.dec = none) (hr : s.nextEdge.rst = false) (hh : hostTurn s.nextEdge = .srst i) :
    step s = exec i s.atEdge := by
  simp only [step_eq_edgeStep hd, edgeStep, hr, hh, Bool.false_eq_true, if_false]

end

/-- Settles O48. -/
theorem hostAccessSharesTheEdge : Obligations.HostAccessSharesTheEdge := by
  refine fun s hd hr => ⟨step_eq_blockStep hd hr, fun w i hh hi _ => ?access⟩
  obtain rfl : decodeHost w = i := Except.ok.inj ((decode_hostWord w).symm.trans hi)
  refine ⟨fun hw => step_of_read hd hr (hostTurn_of_read hh hw), fun hw hres => ?write, fun hw hres => ?srst⟩
  case write => exact step_of_write hd hr ((hostTurn_of_write hh hw hr).trans (by rw [hres]; rfl))
  case srst => exact step_of_srst hd hr ((hostTurn_of_write hh hw hr).trans (by rw [hres]; rfl))

end Sys2Proof.Machine
end

section
/-! PROOFS. Error entry (60_exceptions.md R131), one equation for each kind of error; O24. -/

namespace Sys2Proof.Machine

/-! ### Raising each kind of error -/

theorem raise_format_eq (k : FmtReason) (f : Field) (a : Nat) (b : Byte) (s : State) :
    s.raise (.format k f a b) = { s with
      err := (Err.format k f a b).record, out := { s.out with log := some (Err.format k f a b).record }
      cntFmt := s.cntFmt + 1#32, fmtSeen := true } := by
  simp [State.raise, Err.isFormat, Err.isVariant, Err.isSink, tick]

theorem raise_unsupportedVariant_eq (c : Byte) (s : State) :
    s.raise (.unsupportedVariant c) = { s with
      err := (Err.unsupportedVariant c).record, out := { s.out with log := some (Err.unsupportedVariant c).record }
      cntVar := s.cntVar + 1#32, varSeen := true } := by
  simp [State.raise, Err.isFormat, Err.isVariant, Err.isSink, tick]

/-- A StreamError moves no counter and no sticky flag, whatever the synchronizer's state. -/
theorem raise_stream_eq (k : StreamReason) (q : SyncState) (w : FbIndex) (s : State) :
    s.raise (.stream k q w) = { s with
      err := (Err.stream k q w).record, out := { s.out with log := some (Err.stream k q w).record } } := by
  simp [State.raise, Err.isFormat, Err.isVariant, Err.isSink, tick]

/-- Settles O24: each kind by its own equation, with the codes of its record (R128 to R130), and the phase after a SinkError by
the row SINK_FAIL. -/
theorem errorEntryRecordsCountsAndFlags : Obligations.ErrorEntryRecordsCountsAndFlags := by
  refine fun s => ⟨fun k f a b => ?format, raise_unsupportedVariant_eq (s := s), fun k q w => ?stream, raise_sink_eq s,
    fun _ => rfl, fun k => State.streamError_phase k s, fun t hp ht => ?sinkPhase⟩
  case format =>
    intro r
    have hrec : (Err.format k f a b).record = r := by cases k <;> rfl
    rw [raise_format_eq, hrec]
  case stream =>
    intro r
    have hrec : (Err.stream k q w).record = r := by
      simp only [r, Err.record]
      congr 1
      · cases k <;> rfl
      · cases q <;> rfl
    rw [raise_stream_eq, hrec]
  case sinkPhase =>
    obtain ⟨-, hfail⟩ := sinkAnswersEndTheHandOver s hp
    cases hfail.symm.trans ht
    rfl

end Sys2Proof.Machine
end

section
/-! PROOFS. Reset and the stale bytes of the buffer (70_reset_and_hazards.md): which edges reset and what such an edge leaves; two
machines that differ in stale bytes alone stay so; O2 and O55. -/

namespace Sys2Proof.Machine

/-! ### Reset (70_reset_and_hazards.md R141) -/

theorem resets_iff (e : Edge) : e.resets = true ↔ e.rst = true ∨ ∃ i, hostTurn e = .srst i := by
  unfold Edge.resets
  cases hostTurn e <;> simp

/-- The row of a host word that writes, by the word's own fields. -/
theorem decodeHost_of_write {w : HostWord} (hw : w.getLsbD 40 = true) :
    decodeHost w = decodeHostWrite (hostAddr (w.extractLsb' 34 6) (w.extractLsb' 32 2)) (w.extractLsb' 0 32) := by
  have haddr : hostAddr (w.extractLsb' 34 6) (w.extractLsb' 32 2) = w.extractLsb' 32 8 :=
    BitVec.extractLsb'_append_extractLsb'_eq_extractLsb' rfl
  rw [haddr, decodeHost, if_pos hw]

/-- The host resets by a write of CTRL with SRST set, and by no other access (44_host_interface.md R118). -/
theorem hostTurn_srst_iff (e : Edge) : (∃ i, hostTurn e = .srst i) ↔
    ∃ w, e.host = some w ∧ w.getLsbD 40 = true ∧ w.extractLsb' 34 6 = 0#6 ∧ w.getLsbD 0 = true := by
  cases hh : e.host with
  | none => simp [hostTurn_noAccess hh]
  | some w =>
    cases hw : w.getLsbD 40 with
    | false => simp only [hostTurn_of_read hh hw, reduceCtorEq, exists_false, Option.some.injEq, exists_eq_left', hw,
        Bool.false_eq_true, false_and]
    | true =>
      have hsrst : (w.extractLsb' 0 32).getLsbD 0 = w.getLsbD 0 := by simp
      simp only [hostTurn, hh, decodeHost_of_write hw, decodeHostWrite_hostAddr, hsrst, if_true, Option.some.injEq,
        exists_eq_left', hw, true_and]
      split_ifs <;> simp_all

/-- An edge that resets does nothing else, whatever its pins carry. -/
theorem step_of_resets {s : State} (hd : s.dec = none) (hr : s.nextEdge.resets = true) :
    step s = .next s.atEdge.softReset := by
  cases hrst : s.nextEdge.rst with
  | true => simp only [step_eq_edgeStep hd, edgeStep, hrst, if_true]
  | false =>
    obtain ⟨i, hh⟩ := ((resets_iff _).mp hr).resolve_left (by simp [hrst])
    obtain ⟨lo, w, rfl⟩ := hostTurn_srst hh
    exact step_of_srst hd hrst hh

/-- Settles O2. -/
theorem resetEdgeResetsAndDiscardsEveryStep : Obligations.ResetEdgeResetsAndDiscardsEveryStep := by
  refine ⟨fun e => ?which, fun s hd hr => step_of_resets hd hr, fun s t hd hp h hp' => ?leavesHalted⟩
  case which => rw [resets_iff, hostTurn_srst_iff]
  case leavesHalted =>
    by_contra hr
    obtain ⟨answer, u, m, ht⟩ := step_blockMove hd (Bool.eq_false_of_not_eq_true hr) h
    obtain rfl := m.eq_of_halted hp
    rw [ht] at hp'
    exact hp' hp

/-! ### Bytes that two buffers share -/

/-- The two buffers read the same at every index below `n`. -/
def agreeBelow (m m' : Memory) (n : Nat) : Prop := ∀ a, a < n → fbRead m' a = fbRead m a

theorem agreeBelow_zero (m m' : Memory) : agreeBelow m m' 0 := fun a ha => absurd ha (Nat.not_lt_zero a)

/-- A byte written into both at the first index they may differ at makes them agree there too. -/
theorem agreeBelow.write_next {m m' : Memory} {n : Nat} (h : agreeBelow m m' n) (hn : n < Config.fbBytes) (b : Byte) :
    agreeBelow (Memory.write m n b) (Memory.write m' n b) (n + 1) := by
  intro a ha
  rw [fbRead_write hn, fbRead_write hn]
  split
  · rfl
  · exact h a (by omega)

/-! ### Two machines that differ in stale bytes (70_reset_and_hazards.md R142) -/

/-- The state with another buffer and other port outputs. -/
def State.withBuffer (m : Memory) (o : Out) (s : State) : State := { s with fb := m, out := o }

theorem sameButStale_iff {s s' : State} : SameButStale s s' ↔
    ∃ m o, s' = s.withBuffer m o ∧ o.log = s.out.log ∧ agreeBelow s.fb m s.live := by
  constructor
  · rintro ⟨hs', hlog, hlive⟩
    exact ⟨s'.fb, s'.out, hs', hlog, hlive⟩
  · rintro ⟨m, o, rfl, hlog, hlive⟩
    exact ⟨rfl, hlog, hlive⟩

/-- How two such states are made: the `n` live bytes agree, and the log ports do. -/
theorem sameButStale_of_live {t : State} {m : Memory} {o : Out} {n : Nat} (hlive : t.live = n) (hlog : o.log = t.out.log)
    (h : agreeBelow t.fb m n) : SameButStale t (t.withBuffer m o) :=
  ⟨rfl, hlog, hlive ▸ h⟩

/-- Where no byte is live, any buffer will do. -/
theorem sameButStale_of_live_eq_zero {t : State} {m : Memory} {o : Out} (hlive : t.live = 0) (hlog : o.log = t.out.log) :
    SameButStale t (t.withBuffer m o) :=
  sameButStale_of_live hlive hlog (agreeBelow_zero _ _)

theorem live_of_seek {s : State} (hp : s.phase = .sync) (hs : s.sync = .seek) : s.live = 0 := by
  simp only [State.live, hp, hs]

theorem live_of_len {s : State} (hr : s.inReady = true) (hs : s.sync = .len) : s.live = 2 := by
  simp only [State.live, ((inReady_iff s).mp hr).1, hs]

theorem live_of_body {s : State} (hr : s.inReady = true) (hs : s.sync = .body) : s.live = s.wp.toNat := by
  simp only [State.live, ((inReady_iff s).mp hr).1, hs]

theorem live_of_decode {s : State} (hp : s.phase = .decode) : s.live = s.fbLen.toNat := by
  simp only [State.live, hp]

/-- A decode reads live bytes alone. -/
theorem decodeFrame_withBuffer {s : State} {m : Memory} (hp : s.phase = .decode) (h : agreeBelow s.fb m s.live) (o : Out) :
    (s.withBuffer m o).decodeFrame = s.decodeFrame := by
  rw [live_of_decode hp] at h
  exact (decodeReadsOnlyTheCapturedBytes s (s.withBuffer m o) rfl fun a ha => (h a ha).symm).symm

/-- The block's move is the same over other stale bytes: of the live bytes it reads the format byte, at the length byte, and the
frame's, at the decode. -/
theorem BlockMove.sameButStale {e : Edge} {s s' t : State} (move : BlockMove e s t) (hc : s.CaptureOk)
    (h : SameButStale s s') : ∃ t', BlockMove e s' t' ∧ SameButStale t t' := by
  obtain ⟨m, o, rfl, hlog, hagree⟩ := sameButStale_iff.mp h
  obtain ⟨-, -, -, -, -, hframe⟩ := hc
  have hlen (hr : s.inReady = true) (hs : s.sync = .len) (b : Byte) : fbRead m 1 = fbRead s.fb 1 ∧
      agreeBelow (Memory.write s.fb 2 b) (Memory.write m 2 b) 3 := by
    rw [live_of_len hr hs] at hagree
    exact ⟨hagree 1 (by decide), hagree.write_next (by decide) b⟩
  have hbody (hr : s.inReady = true) (hs : s.sync = .body) (hw : s.wp.toNat < Config.fbBytes) (b : Byte) :
      agreeBelow (Memory.write s.fb s.wp.toNat b) (Memory.write m s.wp.toNat b) (s.wp + 1#12).toNat := by
    rw [live_of_body hr hs] at hagree
    exact toNat_add_one hw ▸ hagree.write_next hw b
  cases move with
  | wait hw => exact ⟨_, .wait hw, h⟩
  | seekByte b hr ht hs hc => exact ⟨_, .seekByte b hr ht hs hc, rfl, hlog, hagree⟩
  | seekStart b hr ht hs hc =>
    have hwritten := ((agreeBelow_zero s.fb m).write_next (by decide) Config.startTag).write_next (by decide) b
    exact ⟨_, .seekStart b hr ht hs hc, sameButStale_of_live (live_of_len hr rfl) hlog hwritten⟩
  | lenBody b hr ht hs hd =>
    obtain ⟨hformat, hwritten⟩ := hlen hr hs b
    rw [← hformat] at hd ⊢
    exact ⟨_, .lenBody b hr ht hs hd, sameButStale_of_live (live_of_body hr rfl) hlog hwritten⟩
  | lenDone b hr ht hs hd =>
    obtain ⟨hformat, hwritten⟩ := hlen hr hs b
    rw [← hformat] at hd ⊢
    exact ⟨_, .lenDone b hr ht hs hd, sameButStale_of_live (live_of_decode rfl) hlog hwritten⟩
  | bodyByte b hr ht hs hm hw =>
    exact ⟨_, .bodyByte b hr ht hs hm hw, sameButStale_of_live (live_of_body hr hs) hlog (hbody hr hs hw b)⟩
  | bodyLast b hr ht hs hm hw =>
    exact ⟨_, .bodyLast b hr ht hs hm hw, sameButStale_of_live (live_of_decode rfl) hlog (hbody hr hs hw b)⟩
  | eos b hr ht => exact ⟨_, .eos b hr ht, sameButStale_of_live_eq_zero rfl rfl⟩
  | ioerr x hr ht => exact ⟨_, .ioerr x hr ht, sameButStale_of_live_eq_zero rfl rfl⟩
  | cancelTake hp hc hi => exact ⟨_, .cancelTake hp hc hi, sameButStale_of_live_eq_zero rfl rfl⟩
  | decodeOk r hp hi hd =>
    have hd' := (decodeFrame_withBuffer hp hagree o).trans hd
    exact ⟨_, .decodeOk r hp hi hd', sameButStale_of_live (live_of_decode hp).symm hlog hagree⟩
  | decodeErr x hp hi hd =>
    have hd' := (decodeFrame_withBuffer hp hagree o).trans hd
    exact ⟨_, .decodeErr x hp hi hd', sameButStale_of_live_eq_zero (live_of_seek rfl (hframe (.inl hp)).1) rfl⟩
  | sinkAck hp hk =>
    exact ⟨_, .sinkAck hp hk, sameButStale_of_live_eq_zero (live_of_seek rfl (hframe (.inr hp)).1) hlog⟩
  | sinkFail hp hk =>
    exact ⟨_, .sinkFail hp hk, sameButStale_of_live_eq_zero (live_of_seek rfl (hframe (.inr hp)).1) rfl⟩

/-- The block's step goes on alike from a capture in order and from that capture over other stale bytes. -/
theorem blockStep_sameButStale {s s' : State} (hc : s.CaptureOk) (h : SameButStale s s') (e : Edge) :
    ∃ t t', blockStep e s = .next t ∧ blockStep e s' = .next t' ∧ SameButStale t t' := by
  obtain ⟨t, ht⟩ := hc.blockStep_next e
  obtain ⟨t', move, hstale⟩ := (blockStep_move ht).sameButStale hc h
  exact ⟨t, t', ht, move.blockStep, hstale⟩

/-- A host read may show stale bytes, on `host_rdata` and nowhere else (44_host_interface.md R124). -/
theorem exec_hostTurn_read_sameButStale {s s' : State} {e : Edge} {i : Instr} (hh : hostTurn e = .read i)
    (hc : s.CaptureOk) (h : SameButStale s s') :
    ∃ t t', exec i s = .next t ∧ exec i s' = .next t' ∧ t.CaptureOk ∧ SameButStale t t' := by
  obtain ⟨m, o, rfl, hlog, hagree⟩ := sameButStale_iff.mp h
  obtain ⟨v, hv⟩ := exec_hostTurn_read hh s
  obtain ⟨v', hv'⟩ := exec_hostTurn_read hh (s.withBuffer m o)
  exact ⟨_, _, hv, hv', hc, rfl, hlog, hagree⟩

/-- The flags of this edge's errors are kept by the log port, which shows no byte of the buffer (44_host_interface.md R116). -/
theorem keepRaised_sameButStale {s s' : State} (h : SameButStale s s') : SameButStale s.keepRaised s'.keepRaised := by
  obtain ⟨m, o, rfl, hlog, hagree⟩ := sameButStale_iff.mp h
  have hraised (kind : BitVec 3) : (s.withBuffer m o).raisedNow kind = s.raisedNow kind := by
    simp only [State.raisedNow, State.withBuffer, hlog]
  refine ⟨?_, hlog, hagree⟩
  simp only [State.keepRaised, hraised]
  rfl

/-- A host write sees no byte of the buffer. -/
theorem HostWrite.sameButStale {i : Instr} {s s' t : State} (w : HostWrite i s t) (h : SameButStale s s') :
    ∃ t', exec i s' = .next t' ∧ SameButStale t t' := by
  obtain ⟨m, o, rfl, hlog, hagree⟩ := sameButStale_iff.mp h
  cases w with
  | cancel lo w _ hp => exact ⟨_, if_neg hp, rfl, hlog, hagree⟩
  | cancelHalted lo w _ hp => exact ⟨_, if_pos hp, rfl, hlog, hagree⟩
  | w1c | fbAddr | ignored => exact ⟨_, rfl, rfl, hlog, hagree⟩

theorem step_of_idle {s : State} (hd : s.dec = none) (hr : s.nextEdge.rst = false) (hh : hostTurn s.nextEdge = .idle) :
    step s = blockStep s.nextEdge s.atEdge := by
  simp only [step_eq_edgeStep hd, edgeStep, hr, hh, Bool.false_eq_true, if_false]

/-- Settles O55, by what the edge carries: a reset leaves no byte live, the host sees the buffer through a read port alone, and
the block reads live bytes alone. -/
theorem staleBytesDoNotInfluenceTheBlock : Obligations.StaleBytesDoNotInfluenceTheBlock := by
  intro s s' hc h
  have ⟨hd, _⟩ := hc
  obtain ⟨m, o, rfl, -, hagree⟩ := sameButStale_iff.mp h
  have hc : s.atEdge.CaptureOk := hc
  have hentry : SameButStale s.atEdge (s.withBuffer m o).atEdge := ⟨rfl, rfl, hagree⟩
  have hd' : (s.withBuffer m o).dec = none := hd
  cases hr : s.nextEdge.resets with
  | true => exact ⟨_, _, step_of_resets hd hr, step_of_resets hd' hr, rfl, rfl, agreeBelow_zero _ _⟩
  | false =>
    obtain ⟨hrst, hsrst⟩ := (resets_false_iff _).mp hr
    cases hh : hostTurn s.nextEdge with
    | idle =>
      rw [step_of_idle hd hrst hh, step_of_idle hd' hrst hh]
      exact blockStep_sameButStale hc hentry s.nextEdge
    | read i =>
      obtain ⟨u, u', hu, hu', hcu, hstale⟩ := exec_hostTurn_read_sameButStale hh hc hentry
      rw [step_of_read hd hrst hh, step_of_read hd' hrst hh, hu, hu']
      exact blockStep_sameButStale hcu hstale s.nextEdge
    | write i =>
      obtain ⟨u, u', hu, hu', hstale⟩ := blockStep_sameButStale hc hentry s.nextEdge
      obtain ⟨t, ht, w⟩ := exec_hostTurn_write hh u
      obtain ⟨t', ht', hstale'⟩ := w.sameButStale hstale
      have hedge' : blockStep (s.withBuffer m o).nextEdge (s.withBuffer m o).atEdge = .next u' := hu'
      refine ⟨t.keepRaised, t'.keepRaised, ?_, ?_, keepRaised_sameButStale hstale'⟩
      · rw [step_of_write hd hrst hh, hu, andThen_of_next, ht, andThen_of_next]
      · rw [step_of_write hd' hrst hh, hedge', andThen_of_next, ht', andThen_of_next]
    | srst i => exact absurd hh (hsrst i)

end Sys2Proof.Machine
end
